-- ==== Sys2Proof/Word.lean ====
section
/-! DEFINITION. The byte, the pixel, the cache-slot number and the bit-slice `b[hi:lo]` types of the
spec (00_scope.md R8, R10, R11). Only types stand here; what computes with them stands in Decode.lean and under Machine/. -/

namespace Sys2Proof

/-- 8 bits, value 0 to 255 (R10). -/
abbrev Byte := BitVec 8

/-- The index of a pixel-cache slot, 0 to 63: 6 bits (R8, R22). -/
abbrev Slot := Fin 64

/-- Four unsigned 8-bit channels in the order red, green, blue, alpha (R11). Equality of pixels is
equality of all four channels. -/
structure Pixel where
  r : Byte
  g : Byte
  b : Byte
  a : Byte
deriving DecidableEq, Repr, Inhabited

/-- The pixel cache: 64 slots of one pixel each (R22). -/
abbrev Cache := Vector Pixel 64

end Sys2Proof
end

