-- ==== Sys2Proof/Config.lean ====
section
/-! DEFINITION. The constants the source fixes (00_scope.md R6), the parameters it leaves open
(R7) as plain data, and the one source of free values. -/

namespace Sys2Proof.Config

/-- `RUN_MAX`: the largest repeat count of one RUN opcode (R6). -/
abbrev runMax : Nat := 62

/-- `HEADER_LEN`: the header's size in bytes (R6, R82). -/
abbrev headerLen : Nat := 14

/-- `START_PIXEL` (R6, R21). -/
def startPixel : Pixel := ⟨0, 0, 0, 255⟩

/-- `ZERO_PIXEL` (R6, R22). -/
def zeroPixel : Pixel := ⟨0, 0, 0, 0⟩

/-- The parameters of R7, as data, so that `Machine.State` can carry them and a statement about
every state is a statement about every build (log 1).

DELTA has the one law `DELTA(c,q) ≡ c − q (mod 256)`. Every function with that law is the default
`sext_8((c − q) mod 256)` plus 256 times some integer for each of the finitely many operand pairs;
`deltaBumps` lists the pairs whose integer is not 0 (DEDUCED, log 2). The default is the empty list. -/
structure Params where
  /-- `MAGIC`, four bytes (D1). -/
  magic : Vector Byte 4
  /-- `END_MARKER` (D2); `END_LEN` is its length. -/
  endMarker : List Byte
  /-- The operand pairs at which DELTA is not the wrapping default, each with how many times 256 is
  added there (D5). -/
  deltaBumps : List ((Byte × Byte) × Int)
  /-- `MAX_PIXELS`; `none` is unbounded (D9). -/
  maxPixels : Option Nat
deriving DecidableEq, Repr

/-- The defaults of R7, which every test vector of the spec uses. The bytes of MAGIC and of
END_MARKER are from general knowledge, as the spec says (G1, G2). -/
def Params.default : Params where
  magic := #v[0x71, 0x6F, 0x69, 0x66]
  endMarker := [0, 0, 0, 0, 0, 0, 0, 1]
  deltaBumps := []
  maxPixels := none

/-- `END_LEN` (R7). -/
abbrev Params.endLen (p : Params) : Nat := p.endMarker.length

/-- R7: `END_LEN ≥ 1`. -/
def Params.wf (p : Params) : Bool := 1 ≤ p.endLen

/-- The free values: what a register holds when the spec calls it unspecified and the machine goes
on (R35, R237, R238, R267; U6). No body: nothing evaluates it and no proof sees a value of it. The
first argument is the draw (the counter `State.draws`), the second tells the values of one draw
apart (log 14). -/
opaque freeValue (draw which : Nat) : Nat

end Sys2Proof.Config
end

