-- ==== Sys2Proof/Machine/State.lean ====
section
/-! DEFINITION. The state of the block (10_state.md), the reasons a step can stop, and the state
after power-on. Plain data throughout. -/

namespace Sys2Proof.Machine

/-- A buffer's bytes, listed as (offset, byte): offsets strictly rising (`Memory.wf`). An unlisted
offset holds no value (DESIGN CHOICE, safe; log 18). -/
abbrev Memory := List Host.Cell

/-- `MODE` (R30). -/
inductive Mode where
  | encode
  | decode
deriving DecidableEq, Repr

/-- `STATUS` (R30). -/
inductive Status where
  | idle
  | busy
  | done
  | fault
deriving DecidableEq, Repr

/-- `FCLASS` (R230). -/
inductive FaultClass where
  | formatError
  | invalidInput
deriving DecidableEq, Repr

/-- `FCAUSE`: the causes of class `FormatError` (R231), then those of class `InvalidInput` (R232). -/
inductive FaultCause where
  /-- FormatError 1. -/
  | badLength
  /-- FormatError 2. -/
  | badMagic
  /-- FormatError 3. -/
  | badChannels
  /-- FormatError 4. -/
  | badColorSpace
  /-- FormatError 5: a decoded width or height of 0. -/
  | zeroDimension
  /-- FormatError 6. -/
  | badEndMarker
  /-- FormatError 7. -/
  | truncatedStream
  /-- FormatError 8. -/
  | trailingBytes
  /-- FormatError 9. -/
  | runOverrun
  /-- InvalidInput 1: `InvalidImage_BadChannels`. -/
  | imageBadChannels
  /-- InvalidInput 2: `InvalidImage_BadColorSpace`. -/
  | imageBadColorSpace
  /-- InvalidInput 3: `ZeroDimension` on encode. -/
  | imageZeroDimension
  /-- InvalidInput 4. -/
  | bufferLengthMismatch
  /-- InvalidInput 5: host-side adapter only (`flattenGrid`), never raised by the block (R232). -/
  | notRectangular
  /-- InvalidInput 6: software front end only, never raised by the block (R232). -/
  | badPixelWidth
  /-- InvalidInput 7: a packer operand out of range (R133 to R136). -/
  | payloadRange
deriving DecidableEq, Repr

/-- Which part of a pass comes next: the checks around the opcode stream, or the stream itself (the
order of R210 and R211). The model's own field (log 11). -/
inductive Phase where
  | framing
  | stream
deriving DecidableEq, Repr

/-- What the host does to the block between passes (R263, R264; log 12). -/
inductive HostCmd where
  /-- Write the four header registers. -/
  | writeHeader (width height : BitVec 32) (channels colorSpace : Byte)
  /-- Place whole pixels in PIX and tell the block how many. -/
  | placePixels (pixels : List Pixel)
  /-- Place a container in IN and tell the block its length L. -/
  | placeInput (bytes : List Byte)
  /-- `START(mode)` (R261). -/
  | start (mode : Mode)
deriving DecidableEq, Repr

/-- The named buffers of 20_memory.md R50. -/
inductive Space where
  | input
  | output
  | pixels
deriving DecidableEq, Repr

/-- Why a step stops with a fault. A fault the SPEC describes is no member: it is a next state with
STATUS = FAULT (R236). -/
inductive Fault where
  /-- Raised by the reads of IN and PIX where a byte inside the told length was never written. Safe:
  no rule reads such a byte, and no legal state (`State.Inv`) holds one (R13, R60; log 18). -/
  | unwrittenByte (space : Space) (offset : Nat)
deriving DecidableEq, Repr

/-- Why a step is refused. -/
inductive Refusal where
  /-- Raised by `exec` for an instruction that has no meaning yet. Safe. -/
  | notModelled (mnemonic : String)
  /-- `Refused(Capacity)`: N is above MAX_PIXELS (R101, R243). Raised by the framing checks of a
  pass. Safe: the spec's own outcome; that the run ends with it, so that no later pass runs, is the
  model's choice (log 28). -/
  | capacity
  /-- A point the spec says no input reaches (R240): a packer called out of range by the encoder, a
  fetched opcode that does not decode. Raised only in states no run reaches. Safe. -/
  | unreachable
deriving DecidableEq, Repr

/-- Everything the spec gives the block, and four fields of the model's own (`cfg`, `phase`, `hostq`,
`draws`). The pixel count N is no field: R25 makes it a view of W and H (`State.pixelCount`). -/
structure State where
  /-- The parameters of R7; no step writes them (log 1). -/
  cfg : Config.Params
  /-- PREV (R21). -/
  prev : Pixel
  /-- CACHE[0..63] (R22). -/
  cache : Cache
  /-- RUNCNT, 6 bits (R23, R8). -/
  runCount : BitVec 6
  /-- W (R24). -/
  width : BitVec 32
  /-- H (R24). -/
  height : BitVec 32
  /-- CH (R24). -/
  channels : Byte
  /-- CS (R24). -/
  colorSpace : Byte
  /-- PXI, the encoder's pixel index (R26). -/
  pxi : Nat
  /-- OPTR, the output byte cursor (R27). -/
  optr : Nat
  /-- IPTR, the byte offset of the next opcode within the stream: the decode pass's program counter (R28). -/
  iptr : Nat
  /-- PXO, the produced-pixel count (R29). -/
  pxo : Nat
  /-- MODE (R30). -/
  mode : Mode
  /-- STATUS (R30). -/
  status : Status
  /-- FCLASS; `none` is the spec's "not valid" (R31, R35, R261; log 20). -/
  fclass : Option FaultClass
  /-- FCAUSE; `none` is the spec's "not valid" (R31, R35, R261; log 20). -/
  fcause : Option FaultCause
  /-- Which part of the pass comes next (log 11). -/
  phase : Phase
  /-- IN (R52). -/
  inMem : Memory
  /-- L = len(IN) (R52, R263). -/
  inLen : Nat
  /-- OUT (R51). -/
  outMem : Memory
  /-- PIX as bytes: offset 4i is r of pixel i, then g, b, a (R53). -/
  pixMem : Memory
  /-- len(PIX) in pixels (R13, R263; log 27). -/
  pixLen : Nat
  /-- The host's commands not yet taken, oldest first (log 12). -/
  hostq : List HostCmd
  /-- How many times free values were drawn (log 14). -/
  draws : Nat
deriving DecidableEq, Repr

/-- Power-on: STATUS = IDLE, as the spec says (R36, R260). The spec leaves every other register and
buffer unspecified; the values here are the start-of-pass values of R35 where it has one and zero
or "not valid" elsewhere (DESIGN CHOICE, unsafe; log 10). -/
def State.reset : State where
  cfg := Config.Params.default
  prev := Config.startPixel
  cache := Vector.replicate 64 Config.zeroPixel
  runCount := 0
  width := 0
  height := 0
  channels := 0
  colorSpace := 0
  pxi := 0
  optr := 0
  iptr := 0
  pxo := 0
  mode := .encode
  status := .idle
  fclass := none
  fcause := none
  phase := .framing
  inMem := []
  inLen := 0
  outMem := []
  pixMem := []
  pixLen := 0
  hostq := []
  draws := 0

end Sys2Proof.Machine
end

