-- ==== Sys2Proof/Machine/Operands.lean ====
section
/-! DEFINITION. What the opcodes compute from their operands: the pixel each produces
(44_decoder.md R183 to R188), the hash that addresses the cache (41_pixel_cache.md R120), the
encoder's colour delta (43_encoder.md R156), the pixel count and the extent of the stream. -/

namespace Sys2Proof.Machine

/-- `hash(p) = (3r + 5g + 7b + 11a) mod 64`, the channels unsigned, the sum exact (R120). -/
def pixelHash (p : Pixel) : Slot :=
  Fin.ofNat 64 (p.r.toNat * 3 + p.g.toNat * 5 + p.b.toNat * 7 + p.a.toNat * 11)

/-- `CACHE[k]` (R124). -/
def cacheRead (x : Cache) (k : Slot) : Pixel := x[k]

/-- `CACHE[hash(p)] <- p`, the only write of the cache (R121). -/
def cacheStore (c : Cache) (p : Pixel) : Cache := c.set (pixelHash p) p

/-- A channel plus a signed delta, reduced modulo 256 (R186; D6, log 5). -/
def addDelta (channel : Byte) (d : Int) : Byte := channel + BitVec.ofInt 8 d

/-- The pixel of RGB: alpha is PREV's (R183). -/
def rgbPixel (prev : Pixel) (r g b : Byte) : Pixel := ⟨r, g, b, prev.a⟩

/-- The pixel of RGBA (R184). -/
def rgbaPixel (r g b a : Byte) : Pixel := ⟨r, g, b, a⟩

/-- The pixel of DIFF (R186). -/
def diffPixel (prev : Pixel) (dr dg db : Int) : Pixel :=
  ⟨addDelta prev.r dr, addDelta prev.g dg, addDelta prev.b db, prev.a⟩

/-- The pixel of LUMA: red and blue add the green delta and their cross delta (R187). -/
def lumaPixel (prev : Pixel) (dg drg dbg : Int) : Pixel :=
  ⟨addDelta prev.r (dg + drg), addDelta prev.g dg, addDelta prev.b (dg + dbg), prev.a⟩

/-- How many times 256 the build's DELTA adds to the wrapping default at this operand pair (R7; log 2). -/
def deltaBump (cfg : Config.Params) (c q : Byte) : Int := (cfg.deltaBumps.lookup (c, q)).getD 0

/-- `DELTA(c, q)` (R7, R156): `sext_8((c − q) mod 256)` plus a multiple of 256 (D5; log 2). -/
def delta (cfg : Config.Params) (c q : Byte) : Int := (c - q).toInt + 256 * deltaBump cfg c q

/-- `N = W × H`, exact (R25, R101). -/
def pixelCountOf (width height : BitVec 32) : Nat := width.toNat * height.toNat

/-- `N` of a state (R25; log 19). -/
def State.pixelCount (s : State) : Nat := pixelCountOf s.width s.height

/-- `|S| = L − 14 − END_LEN` (R211, R212). -/
def State.streamLen (s : State) : Nat := s.inLen - Config.headerLen - s.cfg.endLen

/-- The offset in IN of offset `c` of the stream (R28, R59). -/
def streamOffset (c : Nat) : Nat := Config.headerLen + c

end Sys2Proof.Machine
end

