-- ==== Sys2Proof/Syntax.lean ====
section
/-! DEFINITION. The instruction set: the six opcodes of the byte stream (30_encoding.md R70, R79),
with decoded operands as R16 and R78 write them. -/

namespace Sys2Proof

/-- One opcode of the stream. Operands are the decoded values of R78: deltas are signed, `run` holds
the repeat count and not the stored field. -/
inductive Instr where
  /-- `RGB r,g,b` (R71). -/
  | rgb (r g b : Byte)
  /-- `RGBA r,g,b,a` (R72). -/
  | rgba (r g b a : Byte)
  /-- `INDEX k` (R73). -/
  | index (k : Slot)
  /-- `DIFF dr,dg,db` (R74). -/
  | diff (dr dg db : Int)
  /-- `LUMA dg,drg,dbg`: green delta, red delta minus green delta, blue delta minus green delta (R75). -/
  | luma (dg drg dbg : Int)
  /-- `RUN n`, repeat count 1 to 62 (R76). -/
  | run (n : Nat)
deriving DecidableEq, Repr

end Sys2Proof
end

