-- ==== Sys2Proof/Machine/Flags.lean ====
section
/-! DEFINITION. The block has no condition flags (10_state.md R32): the comparisons it makes are
consumed inside the step that makes them. They stand here, one function each, with the codes of the
fault registers (60_exceptions.md R230 to R232). -/

namespace Sys2Proof.Machine

/-- `p == PREV`, all four channels (R152). -/
def repeatsPrev (prev p : Pixel) : Bool := p == prev

/-- `CACHE[hash(p)] == p` (R154). -/
def hitsCache (c : Cache) (p : Pixel) : Bool := cacheRead c (pixelHash p) == p

/-- `p.a == PREV.a` (R156 to R159). -/
def keepsAlpha (prev p : Pixel) : Bool := p.a == prev.a

/-- The range test of DIFF on the three deltas (R156). -/
def diffFits (dr dg db : Int) : Bool :=
  inRange (-2) 1 dr && inRange (-2) 1 dg && inRange (-2) 1 db

/-- The range test of LUMA on the green delta and the two cross deltas (R157). -/
def lumaFits (dg drg dbg : Int) : Bool :=
  inRange (-32) 31 dg && inRange (-8) 7 drg && inRange (-8) 7 dbg

/-- A pending run of `n` pixels is emitted now: it is full, or this is the last pixel (R152). -/
def runEnds (n : Nat) (last : Bool) : Bool := decide (n = Config.runMax) || last

/-- `N > MAX_PIXELS` (R101, R243). -/
def exceedsCapacity (cfg : Config.Params) (n : Nat) : Bool :=
  match cfg.maxPixels with
  | none => false
  | some m => decide (m < n)

/-- Class numbers (R230). -/
def FaultClass.code : FaultClass → Nat
  | .formatError => 1
  | .invalidInput => 2

/-- The class of a cause (R231, R232). -/
def FaultCause.faultClass : FaultCause → FaultClass
  | .badLength | .badMagic | .badChannels | .badColorSpace | .zeroDimension | .badEndMarker
  | .truncatedStream | .trailingBytes | .runOverrun => .formatError
  | .imageBadChannels | .imageBadColorSpace | .imageZeroDimension | .bufferLengthMismatch
  | .notRectangular | .badPixelWidth | .payloadRange => .invalidInput

/-- Cause numbers, counted within their class (R231, R232). -/
def FaultCause.code : FaultCause → Nat
  | .badLength => 1
  | .badMagic => 2
  | .badChannels => 3
  | .badColorSpace => 4
  | .zeroDimension => 5
  | .badEndMarker => 6
  | .truncatedStream => 7
  | .trailingBytes => 8
  | .runOverrun => 9
  | .imageBadChannels => 1
  | .imageBadColorSpace => 2
  | .imageZeroDimension => 3
  | .bufferLengthMismatch => 4
  | .notRectangular => 5
  | .badPixelWidth => 6
  | .payloadRange => 7

end Sys2Proof.Machine
end

