-- ==== Sys2Proof/Machine/Ops.lean ====
section
/-! DEFINITION. The operations the meanings share: reads and writes of the buffers, `produce` and
`emit` (00_scope.md R13), the post-update (44_decoder.md R189), the start command (R261), and taking
a fault (60_exceptions.md R236 to R238). -/

namespace Sys2Proof.Machine

/-- The outcome of an operation of the block. -/
abbrev Result := Host.Outcome State Fault Refusal

/-- The byte at an offset; an unlisted offset holds none (log 18). -/
def Memory.read : Memory → Nat → Option Byte
  | [], _ => none
  | c :: m, a => if c.1 = a then some c.2 else Memory.read m a

/-- Write one byte, keeping the offsets strictly rising. -/
def Memory.write : Memory → Nat → Byte → Memory
  | [], a, b => [(a, b)]
  | c :: m, a, b =>
    if c.1 < a then c :: Memory.write m a b
    else if c.1 = a then (a, b) :: m
    else (a, b) :: c :: m

/-- Every offset listed is above `lo`, and they rise strictly. -/
def Memory.wfAbove : Option Nat → Memory → Bool
  | _, [] => true
  | none, c :: m => Memory.wfAbove (some c.1) m
  | some lo, c :: m => decide (lo < c.1) && Memory.wfAbove (some c.1) m

/-- The canonical form: offsets strictly rising. An unlisted offset reads as no value, so no entry
can equal what an unlisted offset reads as. -/
def Memory.wf (m : Memory) : Bool := Memory.wfAbove none m

/-- `MemRead` of `n` bytes from offset `a` (R13). -/
def Memory.readBytes (m : Memory) (a : Nat) : Nat → Option (List Byte)
  | 0 => some []
  | n + 1 => (m.read a).bind fun b => (Memory.readBytes m (a + 1) n).map (b :: ·)

/-- `MemWrite` of a byte sequence at offset `a`, the first byte at the lowest offset (R13). -/
def Memory.writeBytes (m : Memory) (a : Nat) : List Byte → Memory
  | [] => m
  | b :: bs => Memory.writeBytes (m.write a b) (a + 1) bs

/-- A buffer holding these bytes from offset `a`. -/
def Memory.ofBytesFrom (a : Nat) : List Byte → Memory
  | [] => []
  | b :: bs => (a, b) :: Memory.ofBytesFrom (a + 1) bs

/-- A buffer holding exactly these bytes from offset 0. -/
def Memory.ofBytes (bs : List Byte) : Memory := Memory.ofBytesFrom 0 bs

/-- A pixel's bytes: r, g, b, a, red at the lowest offset (R11, R53). -/
def pixelBytes (p : Pixel) : List Byte := [p.r, p.g, p.b, p.a]

/-- The pixel that four bytes make. -/
def pixelOfBytes : List Byte → Option Pixel
  | [r, g, b, a] => some ⟨r, g, b, a⟩
  | _ => none

/-- `MemRead(PIX, i, 1)` (R13, R53). -/
def Memory.readPixel (m : Memory) (i : Nat) : Option Pixel :=
  (m.readBytes (4 * i) 4).bind pixelOfBytes

/-- `MemWrite(PIX, i, 1, p)` (R13, R53). -/
def Memory.writePixel (m : Memory) (i : Nat) (p : Pixel) : Memory :=
  m.writeBytes (4 * i) (pixelBytes p)

/-- A buffer holding exactly these pixels (R53). -/
def Memory.ofPixels (ps : List Pixel) : Memory := Memory.ofBytes (ps.flatMap pixelBytes)

/-- `produce(p)` (R13): PIX[PXO] <- p and PXO <- PXO + 1; len(PIX) counts the pixels produced. -/
def State.produce (p : Pixel) (s : State) : State :=
  { s with pixMem := s.pixMem.writePixel s.pxo p, pxo := s.pxo + 1, pixLen := s.pxo + 1 }

/-- `produce(p)`, `n` times over (R188). -/
def State.produceN (p : Pixel) : Nat → State → State
  | 0, s => s
  | n + 1, s => State.produceN p n (s.produce p)

/-- `emit(bs)` (R13): append to OUT at OPTR. -/
def State.emit (bs : List Byte) (s : State) : State :=
  { s with outMem := s.outMem.writeBytes s.optr bs, optr := s.optr + bs.length }

/-- `IPTR <- IPTR + n` (R181). -/
def State.advance (n : Nat) (s : State) : State := { s with iptr := s.iptr + n }

/-- The post-update: `PREV <- p; CACHE[hash(p)] <- p` (R189). -/
def State.postUpdate (p : Pixel) (s : State) : State :=
  { s with prev := p, cache := cacheStore s.cache p }

/-- What every opcode of length `len` does with the pixel `p` it produces `n` times: the pixels, the
cursor, then the post-update once (R181, R189). -/
def State.completeOpcode (len : Nat) (p : Pixel) (n : Nat) (s : State) : State :=
  ((s.produceN p n).advance len).postUpdate p

/-- A pixel of a draw of free values (log 14). -/
def freePixel (draw i : Nat) : Pixel :=
  ⟨BitVec.ofNat 8 (Config.freeValue draw (4 * i)), BitVec.ofNat 8 (Config.freeValue draw (4 * i + 1)),
    BitVec.ofNat 8 (Config.freeValue draw (4 * i + 2)), BitVec.ofNat 8 (Config.freeValue draw (4 * i + 3))⟩

/-- The header registers hold unspecified values: free ones (R35, R237; log 15, log 16). -/
def State.loseHeader (s : State) : State :=
  { s with
    width := BitVec.ofNat 32 (Config.freeValue s.draws 265)
    height := BitVec.ofNat 32 (Config.freeValue s.draws 266)
    channels := BitVec.ofNat 8 (Config.freeValue s.draws 267)
    colorSpace := BitVec.ofNat 8 (Config.freeValue s.draws 268)
    draws := s.draws + 1 }

/-- The end of a pass, of either kind: PREV, CACHE, RUNCNT and the cursors are dead, their values
unspecified (R20, R238, R267): free values (log 14). MODE, the header registers and the told lengths, which
R20 and U7 leave open too, stay (DESIGN CHOICE, unsafe; log 29). -/
def State.loseRegisters (s : State) : State :=
  { s with
    prev := freePixel s.draws 0
    cache := Vector.ofFn fun k : Fin 64 => freePixel s.draws (k.val + 1)
    runCount := BitVec.ofNat 6 (Config.freeValue s.draws 260)
    pxi := Config.freeValue s.draws 261
    optr := Config.freeValue s.draws 264
    iptr := Config.freeValue s.draws 262
    pxo := Config.freeValue s.draws 263
    phase := .framing
    draws := s.draws + 1 }

/-- No output is valid after a fault (R237): OUT (encode), or PIX and the header registers (decode),
are unspecified. The buffer then holds no value anywhere (log 15). -/
def State.loseOutput (s : State) : State :=
  match s.mode with
  | .encode => { s with outMem := [] }
  | .decode => { s.loseHeader with pixMem := [], pixLen := 0 }

/-- `raise X(cause)` (R236): `FCLASS <- X; FCAUSE <- cause; STATUS <- FAULT` and the pass ends.
Nothing is saved, no handler is entered. There is no return from it (R239): the only way on is the
next start command, `State.startPass`. That MODE stays is the model's choice (DESIGN CHOICE, unsafe;
log 29). -/
def State.raise (c : FaultCause) (s : State) : State :=
  { s.loseOutput.loseRegisters with
    fclass := some c.faultClass
    fcause := some c
    status := .fault }

/-- A successful end of a pass: the registers are dead, the results stay (R266, R267). That MODE stays,
and after an encode pass W, H, CH and CS as the host wrote them, is the model's choice: R20 and U7 leave
them open (DESIGN CHOICE, unsafe; log 29). After a decode pass W, H, CH and CS are results (R264). -/
def State.finish (s : State) : State := { s.loseRegisters with status := .done }

/-- `START(mode)` as one action (R261): the values of R35. The pass's own result buffer is a new one
(R51, R53; log 17), and a decode pass does not know its header yet (R35; log 16). -/
def State.startPass (m : Mode) (s : State) : State :=
  let s1 : State :=
    { s with
      mode := m
      status := .busy
      phase := .framing
      prev := Config.startPixel
      cache := Vector.replicate 64 Config.zeroPixel
      runCount := 0
      pxi := 0
      optr := 0
      iptr := 0
      pxo := 0
      fclass := none
      fcause := none }
  match m with
  | .encode => { s1 with outMem := [] }
  | .decode => { s1.loseHeader with pixMem := [], pixLen := 0 }

end Sys2Proof.Machine
end

