-- ==== Sys2Proof/Machine/Header.lean ====
section
/-! DEFINITION. The header codec (40_header_codec.md): pure functions. -/

namespace Sys2Proof.Machine

/-- The header fields (R24). -/
structure Header where
  width : BitVec 32
  height : BitVec 32
  channels : Byte
  colorSpace : Byte
deriving DecidableEq, Repr

/-- `be32` (R14): the most significant byte first. -/
def be32 (v : BitVec 32) : List Byte :=
  [BitVec.ofNat 8 (v.toNat / 2 ^ 24), BitVec.ofNat 8 (v.toNat / 2 ^ 16),
    BitVec.ofNat 8 (v.toNat / 2 ^ 8), BitVec.ofNat 8 v.toNat]

/-- `unbe32` (R14). -/
def unbe32 (b0 b1 b2 b3 : Byte) : BitVec 32 :=
  BitVec.ofNat 32 (b0.toNat * 2 ^ 24 + b1.toNat * 2 ^ 16 + b2.toNat * 2 ^ 8 + b3.toNat)

/-- Channel counts 3 and 4 are legal (R6, R24). -/
def legalChannels (ch : Byte) : Bool := ch == 3 || ch == 4

/-- Colour-space tags 0 and 1 are legal (R6, R24). -/
def legalColorSpace (cs : Byte) : Bool := cs == 0 || cs == 1

/-- The header values R24 calls legal. -/
def Header.legal (h : Header) : Bool :=
  legalChannels h.channels && legalColorSpace h.colorSpace && h.width != 0 && h.height != 0

/-- `N` of a header (R101). -/
def Header.pixelCount (h : Header) : Nat := pixelCountOf h.width h.height

/-- `encodeHeader` (R100), the tests in its order. -/
def encodeHeader (cfg : Config.Params) (h : Header) : Except FaultCause (List Byte) :=
  if !legalChannels h.channels then .error .imageBadChannels
  else if !legalColorSpace h.colorSpace then .error .imageBadColorSpace
  else if h.width == 0 || h.height == 0 then .error .imageZeroDimension
  else .ok (cfg.magic.toList ++ be32 h.width ++ be32 h.height ++ [h.channels, h.colorSpace])

/-- `decodeHeader` (R102), the tests in its order; width at offset 4, height at offset 8 (R104). -/
def decodeHeader (cfg : Config.Params) (hb : List Byte) : Except FaultCause Header :=
  match hb with
  | [m0, m1, m2, m3, w0, w1, w2, w3, h0, h1, h2, h3, ch, cs] =>
    if [m0, m1, m2, m3] ≠ cfg.magic.toList then .error .badMagic
    else if !legalChannels ch then .error .badChannels
    else if !legalColorSpace cs then .error .badColorSpace
    else if unbe32 w0 w1 w2 w3 == 0 || unbe32 h0 h1 h2 h3 == 0 then .error .zeroDimension
    else .ok ⟨unbe32 w0 w1 w2 w3, unbe32 h0 h1 h2 h3, ch, cs⟩
  | _ => .error .badLength

/-- The header registers of a state (R24). -/
def State.header (s : State) : Header := ⟨s.width, s.height, s.channels, s.colorSpace⟩

/-- Write the header registers. -/
def State.setHeader (h : Header) (s : State) : State :=
  { s with width := h.width, height := h.height, channels := h.channels, colorSpace := h.colorSpace }

end Sys2Proof.Machine
end

