-- ==== Sys2Proof/Machine/Container.lean ====
section
/-! DEFINITION. The framing of a pass (45_container_layout.md R210 to R213): the checks and the
header before the opcode stream, the end marker after it. -/

namespace Sys2Proof.Machine

/-- The beginning of an encode pass (R210): the header's tests, the capacity (R101, R243; log 8), the
length of PIX (R215), then the 14 header bytes. What follows a refused pass the spec leaves open: the
model gives it no next state, so the run ends there and no later START is taken (DESIGN CHOICE, safe;
log 28). -/
def encodeFraming (s : State) : Result :=
  match encodeHeader s.cfg s.header with
  | .error c => .next (s.raise c)
  | .ok hdr =>
    if exceedsCapacity s.cfg s.pixelCount then .refused .capacity
    else if s.pixLen ≠ s.pixelCount then .next (s.raise .bufferLengthMismatch)
    else .next { s.emit hdr with phase := .stream }

/-- The end of an encode pass (R210, R267): the end marker; OPTR is len(OUT) (R27, R264) and stays.
The header registers stay as the host wrote them (DESIGN CHOICE, unsafe; log 29). -/
def encodeClosing (s : State) : Result :=
  let t := s.emit s.cfg.endMarker
  .next { t.finish with optr := t.optr }

/-- The beginning of a decode pass (R211): the container's length, the header, the capacity (R101,
R243; log 8), the end marker (R213). The header registers are written when the header is accepted
(R102). A refused pass has no next state, as in `encodeFraming` (DESIGN CHOICE, safe; log 28). -/
def decodeFraming (s : State) : Result :=
  if s.inLen < Config.headerLen + s.cfg.endLen then .next (s.raise .badLength)
  else
    match s.inMem.readBytes 0 Config.headerLen with
    | none => .fault (.unwrittenByte .input 0)
    | some hb =>
      match decodeHeader s.cfg hb with
      | .error c => .next (s.raise c)
      | .ok h =>
        if exceedsCapacity s.cfg h.pixelCount then .refused .capacity
        else
          match s.inMem.readBytes (s.inLen - s.cfg.endLen) s.cfg.endLen with
          | none => .fault (.unwrittenByte .input (s.inLen - s.cfg.endLen))
          | some trl =>
            if trl ≠ s.cfg.endMarker then .next ((s.setHeader h).raise .badEndMarker)
            else .next { s.setHeader h with phase := .stream }

end Sys2Proof.Machine
end

