-- ==== Sys2Proof/Decode.lean ====
section
/-! DEFINITION. The decoder of one opcode, total on any bytes and rejecting by name, and the encoder
(30_encoding.md R70 to R79). The decoder tells the opcode from its tag byte alone; payload bytes are
never examined for tags (R77). -/

namespace Sys2Proof

/-- `b[hi:lo] = (b >> lo) mod 2^(hi−lo+1)` (R10). -/
def bits (b : Byte) (hi lo : Nat) : Nat := b.toNat / 2 ^ lo % 2 ^ (hi - lo + 1)

/-- `TAG_RGB` and `TAG_RGBA`, the two full-byte tags (R6, R70). -/
def tagRgb : Byte := 0xFE
def tagRgba : Byte := 0xFF

/-- `oplen(b0)` (R77). -/
def oplen (b0 : Byte) : Nat :=
  if b0 = tagRgb then 4
  else if b0 = tagRgba then 5
  else if bits b0 7 6 = 2 then 2
  else 1

/-- Why a byte sequence starts with no whole opcode. There is no third reason: every tag byte
selects an opcode (R80). -/
inductive DecodeError where
  /-- There is no tag byte. -/
  | noByte
  /-- The tag byte is there and some payload byte is not. -/
  | truncated
deriving DecidableEq, Repr

/-- `UNPACK_INDEX` (R137). -/
def unpackIndex (b0 : Byte) : Slot := Fin.ofNat 64 (bits b0 5 0)

/-- `UNPACK_DIFF` (R137): red in [5:4], green in [3:2], blue in [1:0] (D3; log 3). -/
def unpackDiff (b0 : Byte) : Int × Int × Int :=
  ((bits b0 5 4 : Int) - 2, (bits b0 3 2 : Int) - 2, (bits b0 1 0 : Int) - 2)

/-- `UNPACK_LUMA` (R137): red minus green in the high nibble of the second byte (D4; log 4). -/
def unpackLuma (b0 b1 : Byte) : Int × Int × Int :=
  ((bits b0 5 0 : Int) - 32, (bits b1 7 4 : Int) - 8, (bits b1 3 0 : Int) - 8)

/-- `UNPACK_RUN` (R137), for a tag byte 0xC0 to 0xFD. -/
def unpackRun (b0 : Byte) : Nat := bits b0 5 0 + 1

/-- The opcode at the front of a byte sequence, and the bytes after it. The full-byte tags are
tested first, then the top two bits (R70, R181). -/
def decode : List Byte → Except DecodeError (Instr × List Byte)
  | [] => .error .noByte
  | b0 :: rest =>
    if b0 = tagRgb then
      match rest with
      | r :: g :: b :: rest => .ok (.rgb r g b, rest)
      | _ => .error .truncated
    else if b0 = tagRgba then
      match rest with
      | r :: g :: b :: a :: rest => .ok (.rgba r g b a, rest)
      | _ => .error .truncated
    else
      match bits b0 7 6 with
      | 0 => .ok (.index (unpackIndex b0), rest)
      | 1 => .ok (.diff (unpackDiff b0).1 (unpackDiff b0).2.1 (unpackDiff b0).2.2, rest)
      | 2 =>
        match rest with
        | b1 :: rest => .ok (.luma (unpackLuma b0 b1).1 (unpackLuma b0 b1).2.1 (unpackLuma b0 b1).2.2, rest)
        | [] => .error .truncated
      | _ => .ok (.run (unpackRun b0), rest)

/-- The bytes of an instruction: the byte values R71 to R76 give. Where the operands are out of
range the bytes stand for nothing; the packers of Machine/Packer.lean refuse those. -/
def encode : Instr → List Byte
  | .rgb r g b => [tagRgb, r, g, b]
  | .rgba r g b a => [tagRgba, r, g, b, a]
  | .index k => [BitVec.ofNat 8 k.val]
  | .diff dr dg db => [BitVec.ofInt 8 (0x40 + 16 * (dr + 2) + 4 * (dg + 2) + (db + 2))]
  | .luma dg drg dbg =>
    [BitVec.ofInt 8 (0x80 + (dg + 32)), BitVec.ofInt 8 (16 * (drg + 8) + (dbg + 8))]
  | .run n => [BitVec.ofInt 8 (0xC0 + ((n : Int) - 1))]

/-- An instruction's length in bytes (R71 to R76). -/
def Instr.length : Instr → Nat
  | .rgb _ _ _ => 4
  | .rgba _ _ _ _ => 5
  | .index _ => 1
  | .diff _ _ _ => 1
  | .luma _ _ _ => 2
  | .run _ => 1

/-- The `n` bytes of a number, the least significant byte first: how the opcode table numbers an
instruction's bits (byte `j` of the instruction is bits `8j+7 .. 8j`). -/
def tableBytes (w : Nat) : Nat → List Byte
  | 0 => []
  | n + 1 => BitVec.ofNat 8 w :: tableBytes (w / 256) n

/-- The longest opcode, in bytes (R77). -/
def maxOplen : Nat := 5

/-- The instruction the decoder reads where the opcode table's bits are `w`, every bit above `nbits`
being 0. -/
def decodeTableWord (nbits w : Nat) : Option Instr :=
  match decode (tableBytes (w % 2 ^ nbits) maxOplen) with
  | .ok (i, _) => some i
  | .error _ => none

end Sys2Proof
end

