-- ==== Sys2Proof/Machine/CacheRef.lean ====
section
/-! DEFINITION. The meaning of INDEX (44_decoder.md R185). -/

namespace Sys2Proof.Machine

/-- INDEX: the cached pixel unchanged, once (R185), then R181 and R189. A slot never written holds
the zero pixel and reading it is legal (R22). -/
def execIndex (k : Slot) (s : State) : Result :=
  .next (s.completeOpcode 1 (cacheRead s.cache k) 1)

end Sys2Proof.Machine
end

