-- ==== Sys2Proof/Machine/Delta.lean ====
section
/-! DEFINITION. The meanings of DIFF and LUMA (44_decoder.md R186, R187). -/

namespace Sys2Proof.Machine

/-- DIFF: PREV plus three deltas, alpha kept, once (R186), then R181 and R189. -/
def execDiff (dr dg db : Int) (s : State) : Result :=
  .next (s.completeOpcode 1 (diffPixel s.prev dr dg db) 1)

/-- LUMA: PREV plus a green delta and two cross deltas, alpha kept, once (R187), then R181 and R189. -/
def execLuma (dg drg dbg : Int) (s : State) : Result :=
  .next (s.completeOpcode 2 (lumaPixel s.prev dg drg dbg) 1)

end Sys2Proof.Machine
end

