-- ==== Sys2Proof/Machine/Literal.lean ====
section
/-! DEFINITION. The meanings of the two literals, RGB and RGBA (44_decoder.md R183, R184). -/

namespace Sys2Proof.Machine

/-- RGB: the three payload bytes with PREV's alpha, once (R183), then R181 and R189. -/
def execRgb (r g b : Byte) (s : State) : Result :=
  .next (s.completeOpcode 4 (rgbPixel s.prev r g b) 1)

/-- RGBA: the four payload bytes, once (R184), then R181 and R189. -/
def execRgba (r g b a : Byte) (s : State) : Result :=
  .next (s.completeOpcode 5 (rgbaPixel r g b a) 1)

end Sys2Proof.Machine
end

