-- ==== Sys2Proof/Machine/Run.lean ====
section
/-! DEFINITION. The meaning of RUN (44_decoder.md R188). -/

namespace Sys2Proof.Machine

/-- RUN: PREV repeated `n` times, then R181 and R189 once, after the whole run. A run that would pass
the pixel count takes `FormatError(RunOverrun)` before any pixel is written (R188; D7, log 6). -/
def execRun (n : Nat) (s : State) : Result :=
  if s.pixelCount < s.pxo + n then .next (s.raise .runOverrun)
  else .next (s.completeOpcode 1 s.prev n)

end Sys2Proof.Machine
end

