-- ==== Sys2Proof/Machine/Decoder.lean ====
section
/-! DEFINITION. One step of the opcode decoder (44_decoder.md R181, R182, R190): the end test, the
fetch, and the execution of the opcode. -/

namespace Sys2Proof.Machine

/-- What a fetch finds at IPTR. -/
inductive Fetched where
  /-- A whole opcode. -/
  | opcode (i : Instr)
  /-- The stream ends before the opcode does (R190). -/
  | truncated
  /-- A byte of the stream holds no value; no legal state has one (log 18). -/
  | unwritten (offset : Nat)
  /-- The opcode's bytes do not decode; no bytes do that (R80, R240). -/
  | undecoded
deriving DecidableEq, Repr

/-- The fetch (R181, R190): the tag byte, its length, the length test, then the opcode's bytes and
no byte more. -/
def State.fetch (s : State) : Fetched :=
  if s.iptr = s.streamLen then .truncated
  else
    match s.inMem.read (streamOffset s.iptr) with
    | none => .unwritten (streamOffset s.iptr)
    | some b0 =>
      if s.streamLen < s.iptr + oplen b0 then .truncated
      else
        match s.inMem.readBytes (streamOffset s.iptr) (oplen b0) with
        | none => .unwritten (streamOffset s.iptr)
        | some bs =>
          match decode bs with
          | .error _ => .undecoded
          | .ok (i, _) => .opcode i

/-- One decoder step (R181). The test PXO = N comes before each fetch (R182); bytes that remain then
are not examined. -/
def decoderStep (s : State) : Result :=
  if s.pxo = s.pixelCount then
    if s.iptr = s.streamLen then .next s.finish else .next (s.raise .trailingBytes)
  else
    match s.fetch with
    | .opcode i => exec i s
    | .truncated => .next (s.raise .truncatedStream)
    | .unwritten a => .fault (.unwrittenByte .input a)
    | .undecoded => .refused .unreachable

end Sys2Proof.Machine
end

