-- ==== Sys2Proof/Machine/Packer.lean ====
section
/-! DEFINITION. The opcode payload packer (42_opcode_packer.md): the six atomic encoders, pure
functions from payload values to bytes or `InvalidInput(PayloadRange)`. -/

namespace Sys2Proof.Machine

/-- The bytes of an instruction, or the packers' range fault (R130). -/
def pack (i : Instr) : Except FaultCause (List Byte) :=
  if i.wf then .ok (encode i) else .error .payloadRange

/-- `PACK_RGB`; alpha is not encoded (R131). -/
def packRgb (p : Pixel) : Except FaultCause (List Byte) := pack (.rgb p.r p.g p.b)

/-- `PACK_RGBA` (R132). -/
def packRgba (p : Pixel) : Except FaultCause (List Byte) := pack (.rgba p.r p.g p.b p.a)

/-- `PACK_INDEX`, on an integer wider than the 6-bit port (R133; D20). -/
def packIndex (k : Int) : Except FaultCause (List Byte) :=
  if inRange 0 63 k then pack (.index (Fin.ofNat 64 k.toNat)) else .error .payloadRange

/-- `PACK_DIFF` (R134). -/
def packDiff (dr dg db : Int) : Except FaultCause (List Byte) := pack (.diff dr dg db)

/-- `PACK_LUMA`, on the green delta and the two cross deltas (R135). -/
def packLuma (dg drg dbg : Int) : Except FaultCause (List Byte) := pack (.luma dg drg dbg)

/-- `PACK_RUN`, on the repeat count (R136). -/
def packRun (n : Int) : Except FaultCause (List Byte) :=
  if inRange 1 62 n then pack (.run n.toNat) else .error .payloadRange

/-- The bytes of several opcodes in stream order. -/
def packAll : List Instr → Except FaultCause (List Byte)
  | [] => .ok []
  | i :: is =>
    match pack i, packAll is with
    | .ok bs, .ok rest => .ok (bs ++ rest)
    | .error c, _ => .error c
    | .ok _, .error c => .error c

end Sys2Proof.Machine
end

