-- ==== Sys2Proof/Machine/Encoder.lean ====
section
/-! DEFINITION. The opcode encoder (43_encoder.md): the ordered tests of one pixel, the registers
they change, and one step of an encode pass. -/

namespace Sys2Proof.Machine

/-- The registers the per-pixel procedure reads and writes (R150). -/
structure EncRegs where
  prev : Pixel
  cache : Cache
  run : BitVec 6
deriving DecidableEq, Repr

/-- Their values at the start of a pass (R35). -/
def EncRegs.start : EncRegs := ⟨Config.startPixel, Vector.replicate 64 Config.zeroPixel, 0⟩

/-- The opcode of a pixel that is no repeat (R154, R156 to R159), the tests in their order. -/
def selectOpcode (cfg : Config.Params) (prev : Pixel) (cache : Cache) (p : Pixel) : Instr :=
  if hitsCache cache p then .index (pixelHash p)
  else if keepsAlpha prev p then
    let dr := delta cfg p.r prev.r
    let dg := delta cfg p.g prev.g
    let db := delta cfg p.b prev.b
    if diffFits dr dg db then .diff dr dg db
    else if lumaFits dg (dr - dg) (db - dg) then .luma dg (dr - dg) (db - dg)
    else .rgb p.r p.g p.b
  else .rgba p.r p.g p.b p.a

/-- The cache after that pixel: stored on a miss, before the delta tests, and not written on a hit
(R154, R155). -/
def cacheAfter (cache : Cache) (p : Pixel) : Cache :=
  if hitsCache cache p then cache else cacheStore cache p

/-- The pending run, flushed before the opcode of a pixel that breaks it (R153). -/
def flushRun (run : BitVec 6) : List Instr := if run = 0 then [] else [.run run.toNat]

/-- One pixel of the encoder (R151 to R160): the opcodes emitted, in stream order, and the registers
after it. `last` says that the pixel's index is N − 1. -/
def encodePixel (cfg : Config.Params) (last : Bool) (p : Pixel) (e : EncRegs) : List Instr × EncRegs :=
  if repeatsPrev e.prev p then
    let n := e.run.toNat + 1
    if runEnds n last then ([.run n], { e with run := 0 })
    else ([], { e with run := BitVec.ofNat 6 n })
  else
    (flushRun e.run ++ [selectOpcode cfg e.prev e.cache p],
      { prev := p, cache := cacheAfter e.cache p, run := 0 })

/-- The encoder's registers of a state. -/
def State.encRegs (s : State) : EncRegs := ⟨s.prev, s.cache, s.runCount⟩

/-- Write them back. -/
def State.setEncRegs (e : EncRegs) (s : State) : State :=
  { s with prev := e.prev, cache := e.cache, runCount := e.run }

/-- `PXI <- PXI + 1` (R151). -/
def State.nextPixel (s : State) : State := { s with pxi := s.pxi + 1 }

/-- One encoder step (R151), for PXI < N: read PIX[PXI], emit its opcodes, PXI + 1. The packers
cannot fault here (R152, R240); were one to, the step would be refused as unreachable (log 23). -/
def encoderStep (s : State) : Result :=
  match s.pixMem.readPixel s.pxi with
  | none => .fault (.unwrittenByte .pixels (4 * s.pxi))
  | some p =>
    let r := encodePixel s.cfg (s.pxi + 1 == s.pixelCount) p s.encRegs
    match packAll r.1 with
    | .error _ => .refused .unreachable
    | .ok bs => .next ((s.emit bs).setEncRegs r.2).nextPixel

end Sys2Proof.Machine
end

