-- ==== Sys2Proof/Machine/HostPort.lean ====
section
/-! DEFINITION. What the host does between passes (70_reset_and_hazards.md R261, R263, R264). -/

namespace Sys2Proof.Machine

/-- One host command. -/
def hostAct (c : HostCmd) (s : State) : State :=
  match c with
  | .writeHeader w h ch cs => s.setHeader ⟨w, h, ch, cs⟩
  | .placePixels ps => { s with pixMem := Memory.ofPixels ps, pixLen := ps.length }
  | .placeInput bs => { s with inMem := Memory.ofBytes bs, inLen := bs.length }
  | .start m => s.startPass m

/-- A step while no pass runs: the next host command is taken; with none, the block does nothing
(R260; log 25). -/
def hostStep (s : State) : Result :=
  match s.hostq with
  | [] => .next s
  | c :: rest => .next (hostAct c { s with hostq := rest })

end Sys2Proof.Machine
end

