-- ==== Sys2Proof/Machine/Step.lean ====
section
/-! DEFINITION. One step of the machine (00_scope.md R9; log 11), and how an opcode is placed where
the next step fetches it. -/

namespace Sys2Proof.Machine

/-- One step: while a pass runs, its next action (R151, R181, R210, R211); otherwise the host's next
command (R261). -/
def step (s : State) : Host.Outcome State Fault Refusal :=
  match s.status, s.mode, s.phase with
  | .busy, .encode, .framing => encodeFraming s
  | .busy, .encode, .stream => if s.pxi < s.pixelCount then encoderStep s else encodeClosing s
  | .busy, .decode, .framing => decodeFraming s
  | .busy, .decode, .stream => decoderStep s
  | .idle, _, _ => hostStep s
  | .done, _, _ => hostStep s
  | .fault, _, _ => hostStep s

/-- The state in the middle of a decode pass whose stream holds the given opcode at IPTR: the five
bytes there, an IN that is long enough, and a 62 × 1 image of which no pixel is produced yet, so
that the longest RUN fits (log 21). -/
def State.withFetchWord (s : State) (nbits w : Nat) : State :=
  { s with
    mode := .decode
    status := .busy
    phase := .stream
    width := 62
    height := 1
    pxo := 0
    inMem := s.inMem.writeBytes (streamOffset s.iptr) (tableBytes (w % 2 ^ nbits) maxOplen)
    inLen := streamOffset s.iptr + maxOplen + s.cfg.endLen }

end Sys2Proof.Machine
end

