-- ==== Sys2Proof/Machine/Layout.lean ====
section
/-! DEFINITION. The flat-buffer side of the layout adapter (45_container_layout.md R214, R215): the
row-major order of PIX, and a grid of rows as the flat sequence the block codes. -/

namespace Sys2Proof.Machine

/-- The index in PIX of the pixel at row `y`, column `x` (R53, R214). -/
def pixelIndex (width : BitVec 32) (y x : Nat) : Nat := y * width.toNat + x

/-- The pixel at row `y`, column `x`, for a row below H and a column below W; the grid has no other
(R214). -/
def State.pixelAt (s : State) (y x : Nat) : Option Pixel :=
  if y < s.height.toNat ∧ x < s.width.toNat then s.pixMem.readPixel (pixelIndex s.width y x) else none

/-- Every row has the same length (R215). -/
def rectangular (rows : List (List Pixel)) : Bool :=
  rows.all fun row => row.length == (rows.headD []).length

/-- A grid as the flat sequence of its pixels, row by row (R214). Unequal rows are
`InvalidInput(NotRectangular)`, which the host-side adapter raises before a buffer reaches the block
(R215, R232). -/
def flattenGrid (rows : List (List Pixel)) : Except FaultCause (List Pixel) :=
  if rectangular rows then .ok rows.flatten else .error .notRectangular

/-- A flat sequence as `height` rows of `width` pixels: the way back (R214). -/
def splitRows (width : Nat) : Nat → List Pixel → List (List Pixel)
  | 0, _ => []
  | height + 1, ps => ps.take width :: splitRows width height (ps.drop width)

end Sys2Proof.Machine
end

