-- ==== Sys2Proof/Machine/Codec.lean ====
section
/-! DEFINITION. The passes as whole functions of their inputs: `encodeData` (43_encoder.md R163),
`decodeData` (44_decoder.md R192), `encodeImage` and `decodeImage` (45_container_layout.md R210,
R211). They are the meaning of a pass; the steps are an equivalent small-step form (D27). -/

namespace Sys2Proof.Machine

/-- How a pass ends (R236, R243, R267). -/
inductive PassResult (α : Type) where
  | done (a : α)
  | fault (c : FaultCause)
  | refused
deriving DecidableEq, Repr

/-- The opcodes of a pixel sequence, from given registers; the last pixel of the list is the pass's
last. -/
def encodeOps (cfg : Config.Params) : List Pixel → EncRegs → List Instr
  | [], _ => []
  | p :: rest, e =>
    (encodePixel cfg rest.isEmpty p e).1 ++ encodeOps cfg rest (encodePixel cfg rest.isEmpty p e).2

/-- `encodeData` (R163), N being the length of the list. -/
def encodeData (cfg : Config.Params) (ps : List Pixel) : List Byte :=
  (encodeOps cfg ps EncRegs.start).flatMap encode

/-- The loop of `decodeData` (R192) with `need = N − |out|` pixels still to come. -/
def decodeFrom : List Byte → Pixel → Cache → Nat → Except FaultCause (List Pixel)
  | [], _, _, need => if need = 0 then .ok [] else .error .truncatedStream
  | b0 :: rest, prev, cache, need =>
    if need = 0 then .error .trailingBytes
    else if b0 = tagRgb then
      match rest with
      | r :: g :: b :: rest' =>
        let p := rgbPixel prev r g b
        (decodeFrom rest' p (cacheStore cache p) (need - 1)).map (p :: ·)
      | _ => .error .truncatedStream
    else if b0 = tagRgba then
      match rest with
      | r :: g :: b :: a :: rest' =>
        let p := rgbaPixel r g b a
        (decodeFrom rest' p (cacheStore cache p) (need - 1)).map (p :: ·)
      | _ => .error .truncatedStream
    else if bits b0 7 6 = 0 then
      let p := cacheRead cache (unpackIndex b0)
      (decodeFrom rest p (cacheStore cache p) (need - 1)).map (p :: ·)
    else if bits b0 7 6 = 1 then
      let p := diffPixel prev (unpackDiff b0).1 (unpackDiff b0).2.1 (unpackDiff b0).2.2
      (decodeFrom rest p (cacheStore cache p) (need - 1)).map (p :: ·)
    else if bits b0 7 6 = 2 then
      match rest with
      | b1 :: rest' =>
        let p := lumaPixel prev (unpackLuma b0 b1).1 (unpackLuma b0 b1).2.1 (unpackLuma b0 b1).2.2
        (decodeFrom rest' p (cacheStore cache p) (need - 1)).map (p :: ·)
      | [] => .error .truncatedStream
    else
      let n := unpackRun b0
      if need < n then .error .runOverrun
      else (decodeFrom rest prev (cacheStore cache prev) (need - n)).map (List.replicate n prev ++ ·)

/-- `decodeData` (R192). -/
def decodeData (bs : List Byte) (n : Nat) : Except FaultCause (List Pixel) :=
  decodeFrom bs Config.startPixel (Vector.replicate 64 Config.zeroPixel) n

/-- `encodeImage` (R210), with the capacity test of R243 where N becomes known (log 8). -/
def encodeImage (cfg : Config.Params) (h : Header) (ps : List Pixel) : PassResult (List Byte) :=
  match encodeHeader cfg h with
  | .error c => .fault c
  | .ok hdr =>
    if exceedsCapacity cfg h.pixelCount then .refused
    else if ps.length ≠ h.pixelCount then .fault .bufferLengthMismatch
    else .done (hdr ++ encodeData cfg ps ++ cfg.endMarker)

/-- `decodeImage` (R211): the partition by length (R212), the end-marker check (R213). -/
def decodeImage (cfg : Config.Params) (bs : List Byte) : PassResult (Header × List Pixel) :=
  if bs.length < Config.headerLen + cfg.endLen then .fault .badLength
  else
    match decodeHeader cfg (bs.take Config.headerLen) with
    | .error c => .fault c
    | .ok h =>
      if exceedsCapacity cfg h.pixelCount then .refused
      else if bs.drop (bs.length - cfg.endLen) ≠ cfg.endMarker then .fault .badEndMarker
      else
        match decodeData ((bs.drop Config.headerLen).take (bs.length - Config.headerLen - cfg.endLen))
            h.pixelCount with
        | .error c => .fault c
        | .ok ps => .done (h, ps)

end Sys2Proof.Machine
end

