-- ==== Sys2Proof/Safety.lean ====
section
/-! DEFINITION. What counts as a legal state and as a safe run, and the terms the claims use. -/

namespace Sys2Proof.Machine

/-- The buffer holds a byte at every offset below `n` and nowhere else. -/
def Memory.HoldsExactly (m : Memory) (n : Nat) : Prop := ∀ a, (m.read a).isSome = decide (a < n)

/-- R121: every slot holds the zero pixel or a pixel whose hash names the slot. -/
def CacheLegal (x : Cache) : Prop := ∀ k : Slot, x[k] = Config.zeroPixel ∨ pixelHash x[k] = k

/-- The values a pass starts from (R35, R261). -/
def State.AtStart (s : State) : Prop :=
  s.prev = Config.startPixel ∧ s.cache = Vector.replicate 64 Config.zeroPixel ∧ s.runCount = 0 ∧
    s.pxi = 0 ∧ s.optr = 0 ∧ s.iptr = 0 ∧ s.pxo = 0

/-- Legal between the opcodes of an encode pass: the header is legal (R24), PIX has N pixels (R215),
`0 ≤ RUNCNT ≤ 61` (R23), no run pends at the end (R161), and OUT stays within 14 bytes and five a
pixel, a pending run not yet paid for (R51, R165). -/
def State.EncodeStreamLegal (s : State) : Prop :=
  s.header.legal = true ∧ s.pixLen = s.pixelCount ∧ s.pxi ≤ s.pixelCount ∧
    s.runCount.toNat ≤ 61 ∧ (s.pxi = s.pixelCount → s.runCount = 0) ∧
    Config.headerLen ≤ s.optr ∧ s.optr + s.runCount.toNat ≤ Config.headerLen + 5 * s.pxi

/-- Legal between the opcodes of a decode pass: the header is legal (R24), the container is long
enough (R211), `IPTR ≤ |S|` (R28), `PXO ≤ N` (R182), and PIX holds the pixels produced. -/
def State.DecodeStreamLegal (s : State) : Prop :=
  s.header.legal = true ∧ Config.headerLen + s.cfg.endLen ≤ s.inLen ∧ s.iptr ≤ s.streamLen ∧
    s.pxo ≤ s.pixelCount ∧ s.pixLen = s.pxo

/-- The fault registers hold a cause and its class after a fault and are not valid during a pass
(R31, R236, R261). -/
def State.FaultRegsLegal (s : State) : Prop :=
  (s.status = .fault → ∃ c, s.fcause = some c ∧ s.fclass = some c.faultClass) ∧
    (s.status = .busy → s.fcause = none ∧ s.fclass = none)

/-- A legal state: what holds at power-on and what every step keeps. -/
structure State.Inv (s : State) : Prop where
  params : s.cfg.wf = true
  inWf : s.inMem.wf = true
  outWf : s.outMem.wf = true
  pixWf : s.pixMem.wf = true
  inHeld : s.inMem.HoldsExactly s.inLen
  pixHeld : s.pixMem.HoldsExactly (4 * s.pixLen)
  outHeld : s.status = .busy ∨ s.status = .done → s.mode = .encode → s.outMem.HoldsExactly s.optr
  cacheLegal : s.status = .busy → CacheLegal s.cache
  faultRegs : s.FaultRegsLegal
  framing : s.status = .busy → s.phase = .framing → s.AtStart
  decodeFresh : s.status = .busy → s.phase = .framing → s.mode = .decode → s.pixLen = 0
  encodeStream : s.status = .busy → s.phase = .stream → s.mode = .encode → s.EncodeStreamLegal
  decodeStream : s.status = .busy → s.phase = .stream → s.mode = .decode → s.DecodeStreamLegal

/-- A step that does not stop: it answers a next state, or the capacity refusal the spec gives
(R243). -/
def State.StepSafe (s : State) : Prop :=
  (∃ t, step s = .next t) ∨ step s = .refused .capacity

/-- The next fetch of a decode pass finds the bytes `bs` of the stream at IPTR, all inside the
stream. -/
def State.StreamHolds (s : State) (bs : List Byte) : Prop :=
  s.iptr + bs.length ≤ s.streamLen ∧
    s.inMem.readBytes (streamOffset s.iptr) bs.length = some bs

/-- A state in the opcode stream of a decode pass. -/
def State.Decoding (s : State) : Prop := s.status = .busy ∧ s.mode = .decode ∧ s.phase = .stream

/-- A state in the opcode stream of an encode pass. -/
def State.Encoding (s : State) : Prop := s.status = .busy ∧ s.mode = .encode ∧ s.phase = .stream

/-- `t` is `s` after an opcode of length `len` produced the pixel `p` `n` times: PREV, the slot
`hash(p)`, IPTR, PXO and len(PIX) change as said, the pixels PXO to PXO + n − 1 of PIX are `p`, every
other byte of PIX reads as before, and every other field of the state is as before. That len(PIX) counts
the pixels produced is the model's choice (log 27). -/
def OpcodeEffect (len : Nat) (p : Pixel) (n : Nat) (s t : State) : Prop :=
  t = { s with
        prev := p
        cache := s.cache.set (pixelHash p) p
        iptr := s.iptr + len
        pxo := s.pxo + n
        pixMem := t.pixMem
        pixLen := s.pxo + n } ∧
    (∀ j, s.pxo ≤ j → j < s.pxo + n → t.pixMem.readPixel j = some p) ∧
    ∀ a, a < 4 * s.pxo ∨ 4 * (s.pxo + n) ≤ a → t.pixMem.read a = s.pixMem.read a

/-- What the decoder's registers become over an opcode: the pixel it produces, stored (R189). -/
structure DecRegs where
  prev : Pixel
  cache : Cache
deriving DecidableEq, Repr

/-- The pixel an opcode produces from the decoder's registers (R183 to R188). -/
def opcodePixel : Instr → DecRegs → Pixel
  | .rgb r g b, d => rgbPixel d.prev r g b
  | .rgba r g b a, _ => rgbaPixel r g b a
  | .index k, d => cacheRead d.cache k
  | .diff dr dg db, d => diffPixel d.prev dr dg db
  | .luma dg drg dbg, d => lumaPixel d.prev dg drg dbg
  | .run _, d => d.prev

/-- How many pixels an opcode produces. -/
def opcodeCount : Instr → Nat
  | .run n => n
  | .rgb _ _ _ | .rgba _ _ _ _ | .index _ | .diff _ _ _ | .luma _ _ _ => 1

/-- The decoder's registers after an opcode (R189). -/
def DecRegs.after (d : DecRegs) (i : Instr) : DecRegs :=
  ⟨opcodePixel i d, cacheStore d.cache (opcodePixel i d)⟩

/-- The relation between the encoder's and the decoder's registers after the same opcodes (R123,
items 1 to 3, with the invariant of its proof sketch). -/
def RegsAgree (e : EncRegs) (d : DecRegs) : Prop :=
  e.prev = d.prev ∧
    (∀ k : Slot, k ≠ 53 → e.cache[k] = d.cache[k]) ∧
    (e.cache[(53 : Slot)] = d.cache[(53 : Slot)] ∨
      (d.cache[(53 : Slot)] = Config.startPixel ∧ e.cache[(53 : Slot)] = Config.zeroPixel)) ∧
    CacheLegal e.cache ∧
    ((e.prev = Config.startPixel ∧ e.cache = Vector.replicate 64 Config.zeroPixel) ∨
      e.cache[pixelHash e.prev] = e.prev)

end Sys2Proof.Machine
end

