-- ==== Sys2Proof/Certificates/Slice0/Obligations.lean ====
section
/-! DEFINITION. The statements for the provers. Each docstring names the rules of spec/ its statement
formalises; where a statement rests on a choice of the model or of the spec's editors it says so. -/

open Sys2Proof Sys2Proof.Machine

/-! ## Encoding -/

/-- R137 with the formats of R71 to R76: decoding the encoding of any well-formed instruction gives it
back, every operand at every value, and leaves the bytes after it. -/
def Obligations.DecodeInvertsEncode : Prop :=
  ∀ (i : Instr) (rest : List Byte), i.wf = true → decode (encode i ++ rest) = .ok (i, rest)

/-- R137, the other direction: whatever bytes decode, the instruction is well-formed and its encoding
is exactly the bytes consumed. -/
def Obligations.EncodeInvertsDecode : Prop :=
  ∀ (bs rest : List Byte) (i : Instr), decode bs = .ok (i, rest) → i.wf = true ∧ encode i ++ rest = bs

/-- R79, derived from R70 to R76: every value of a tag byte selects exactly one opcode, with the operands
of the table, whatever bytes follow. The order of the fields in DIFF and LUMA is the spec's decisions D3
and D4 (log 3, log 4). -/
def Obligations.EveryTagByteSelectsOneOpcode : Prop :=
  ∀ (b0 b1 b2 b3 b4 : Byte) (rest : List Byte),
    (b0.toNat ≤ 0x3F →
      ∃ k : Slot, k.val = b0.toNat ∧
        decode (b0 :: b1 :: b2 :: b3 :: b4 :: rest) = .ok (.index k, b1 :: b2 :: b3 :: b4 :: rest)) ∧
    (0x40 ≤ b0.toNat ∧ b0.toNat ≤ 0x7F →
      decode (b0 :: b1 :: b2 :: b3 :: b4 :: rest) =
        .ok (.diff ((bits b0 5 4 : Int) - 2) ((bits b0 3 2 : Int) - 2) ((bits b0 1 0 : Int) - 2),
          b1 :: b2 :: b3 :: b4 :: rest)) ∧
    (0x80 ≤ b0.toNat ∧ b0.toNat ≤ 0xBF →
      decode (b0 :: b1 :: b2 :: b3 :: b4 :: rest) =
        .ok (.luma ((bits b0 5 0 : Int) - 32) ((bits b1 7 4 : Int) - 8) ((bits b1 3 0 : Int) - 8),
          b2 :: b3 :: b4 :: rest)) ∧
    (0xC0 ≤ b0.toNat ∧ b0.toNat ≤ 0xFD →
      1 ≤ bits b0 5 0 + 1 ∧ bits b0 5 0 + 1 ≤ 62 ∧
        decode (b0 :: b1 :: b2 :: b3 :: b4 :: rest) =
          .ok (.run (bits b0 5 0 + 1), b1 :: b2 :: b3 :: b4 :: rest)) ∧
    (b0.toNat = 0xFE →
      decode (b0 :: b1 :: b2 :: b3 :: b4 :: rest) = .ok (.rgb b1 b2 b3, b4 :: rest)) ∧
    (b0.toNat = 0xFF →
      decode (b0 :: b1 :: b2 :: b3 :: b4 :: rest) = .ok (.rgba b1 b2 b3 b4, rest))

/-- R71 to R76, R134 to R136: one word of each opcode, written out from the formats, decodes to the
instruction it stands for. The order of the fields in DIFF and LUMA is the spec's decisions D3 and D4
(log 3, log 4). -/
def Obligations.ExampleWordsDecode : Prop :=
  decode [0b11111110, 0xFA, 0x0A, 0x0A] = .ok (.rgb 250 10 10, []) ∧
    decode [0b11111111, 0x01, 0x02, 0x03, 0x80] = .ok (.rgba 1 2 3 128, []) ∧
    decode [0b00001011] = .ok (.index 11, []) ∧
    decode [0b01110011] = .ok (.diff 1 (-2) 1, []) ∧
    decode [0b10111111, 0b11110000] = .ok (.luma 31 7 (-8), []) ∧
    decode [0b11111101] = .ok (.run 62, [])

/-! ## Packers and header codec -/

/-- R131 to R136: what each packer answers, its bytes in range and `InvalidInput(PayloadRange)` out of
range, on every integer. The order of the fields in DIFF and LUMA, the range fault of INDEX and the
name of the cause are the spec's decisions D3, D4, D20 and D12 (log 3, log 4, log 9). -/
def Obligations.PackersAnswerBytesOrRangeFault : Prop :=
  (∀ p : Pixel, packRgb p = .ok [0xFE, p.r, p.g, p.b] ∧ packRgba p = .ok [0xFF, p.r, p.g, p.b, p.a]) ∧
    (∀ k : Int, packIndex k =
      if 0 ≤ k ∧ k ≤ 63 then .ok [BitVec.ofInt 8 k] else .error .payloadRange) ∧
    (∀ dr dg db : Int, packDiff dr dg db =
      if (-2 ≤ dr ∧ dr ≤ 1) ∧ (-2 ≤ dg ∧ dg ≤ 1) ∧ (-2 ≤ db ∧ db ≤ 1) then
        .ok [BitVec.ofInt 8 (0x40 + 16 * (dr + 2) + 4 * (dg + 2) + (db + 2))]
      else .error .payloadRange) ∧
    (∀ dg drg dbg : Int, packLuma dg drg dbg =
      if (-32 ≤ dg ∧ dg ≤ 31) ∧ (-8 ≤ drg ∧ drg ≤ 7) ∧ (-8 ≤ dbg ∧ dbg ≤ 7) then
        .ok [BitVec.ofInt 8 (0x80 + (dg + 32)), BitVec.ofInt 8 (16 * (drg + 8) + (dbg + 8))]
      else .error .payloadRange) ∧
    (∀ n : Int, packRun n =
      if 1 ≤ n ∧ n ≤ 62 then .ok [BitVec.ofInt 8 (0xC0 + (n - 1))] else .error .payloadRange) ∧
    FaultCause.payloadRange.faultClass = .invalidInput

/-- R105: the header round-trip law, both directions, for every MAGIC. -/
def Obligations.HeaderRoundTrip : Prop :=
  ∀ cfg : Config.Params,
    (∀ h : Header, h.legal = true →
      ∃ hb, encodeHeader cfg h = .ok hb ∧ hb.length = 14 ∧ decodeHeader cfg hb = .ok h) ∧
    ∀ (hb : List Byte) (h : Header), decodeHeader cfg hb = .ok h → encodeHeader cfg h = .ok hb

/-- R100 and R234: which fault encodeHeader answers, its tests in order, and the 14 bytes it answers
otherwise (the width and height most significant byte first, R14). The zero-dimension test, the causes
and their order are the spec's decisions D10, D11 and D12 (log 9). -/
def Obligations.EncodeHeaderTestsInOrder : Prop :=
  ∀ (cfg : Config.Params) (h : Header),
    (¬ (h.channels = 3 ∨ h.channels = 4) → encodeHeader cfg h = .error .imageBadChannels) ∧
    ((h.channels = 3 ∨ h.channels = 4) → ¬ (h.colorSpace = 0 ∨ h.colorSpace = 1) →
      encodeHeader cfg h = .error .imageBadColorSpace) ∧
    ((h.channels = 3 ∨ h.channels = 4) → (h.colorSpace = 0 ∨ h.colorSpace = 1) →
      (h.width = 0 ∨ h.height = 0) → encodeHeader cfg h = .error .imageZeroDimension) ∧
    ((h.channels = 3 ∨ h.channels = 4) → (h.colorSpace = 0 ∨ h.colorSpace = 1) →
      h.width ≠ 0 → h.height ≠ 0 →
      ∃ w0 w1 w2 w3 h0 h1 h2 h3 : Byte,
        encodeHeader cfg h = .ok ([cfg.magic[0], cfg.magic[1], cfg.magic[2], cfg.magic[3],
          w0, w1, w2, w3, h0, h1, h2, h3, h.channels, h.colorSpace]) ∧
        h.width.toNat = w0.toNat * 2 ^ 24 + w1.toNat * 2 ^ 16 + w2.toNat * 2 ^ 8 + w3.toNat ∧
        h.height.toNat = h0.toNat * 2 ^ 24 + h1.toNat * 2 ^ 16 + h2.toNat * 2 ^ 8 + h3.toNat)

/-- R102 and R104: which fault decodeHeader answers, its tests in order, and the fields it answers
otherwise, width from bytes 4 to 7 and height from bytes 8 to 11. The causes, their order and the
unsigned reading are the spec's decisions D12, D25 and D9 (log 9). -/
def Obligations.DecodeHeaderTestsInOrder : Prop :=
  ∀ (cfg : Config.Params) (hb : List Byte),
    (hb.length ≠ 14 → decodeHeader cfg hb = .error .badLength) ∧
    ∀ m0 m1 m2 m3 w0 w1 w2 w3 h0 h1 h2 h3 ch cs : Byte,
      hb = [m0, m1, m2, m3, w0, w1, w2, w3, h0, h1, h2, h3, ch, cs] →
      ([m0, m1, m2, m3] ≠ cfg.magic.toList → decodeHeader cfg hb = .error .badMagic) ∧
      ([m0, m1, m2, m3] = cfg.magic.toList → ¬ (ch = 3 ∨ ch = 4) →
        decodeHeader cfg hb = .error .badChannels) ∧
      ([m0, m1, m2, m3] = cfg.magic.toList → (ch = 3 ∨ ch = 4) → ¬ (cs = 0 ∨ cs = 1) →
        decodeHeader cfg hb = .error .badColorSpace) ∧
      ([m0, m1, m2, m3] = cfg.magic.toList → (ch = 3 ∨ ch = 4) → (cs = 0 ∨ cs = 1) →
        ([w0, w1, w2, w3] = [0, 0, 0, 0] ∨ [h0, h1, h2, h3] = [0, 0, 0, 0]) →
        decodeHeader cfg hb = .error .zeroDimension) ∧
      ([m0, m1, m2, m3] = cfg.magic.toList → (ch = 3 ∨ ch = 4) → (cs = 0 ∨ cs = 1) →
        ¬ ([w0, w1, w2, w3] = [0, 0, 0, 0] ∨ [h0, h1, h2, h3] = [0, 0, 0, 0]) →
        ∃ h : Header, decodeHeader cfg hb = .ok h ∧ h.channels = ch ∧ h.colorSpace = cs ∧
          h.width.toNat = w0.toNat * 2 ^ 24 + w1.toNat * 2 ^ 16 + w2.toNat * 2 ^ 8 + w3.toNat ∧
          h.height.toNat = h0.toNat * 2 ^ 24 + h1.toNat * 2 ^ 16 + h2.toNat * 2 ^ 8 + h3.toNat)

/-! ## Hash, cache, delta -/

/-- R120: the hash, its bound, the remark that 8 bits of the sum are enough, and its examples. -/
def Obligations.HashIsTheWeightedSum : Prop :=
  (∀ p : Pixel,
    (pixelHash p).val = (p.r.toNat * 3 + p.g.toNat * 5 + p.b.toNat * 7 + p.a.toNat * 11) % 64 ∧
    p.r.toNat * 3 + p.g.toNat * 5 + p.b.toNat * 7 + p.a.toNat * 11 ≤ 6630 ∧
    (pixelHash p).val = (p.r * 3 + p.g * 5 + p.b * 7 + p.a * 11).toNat % 64) ∧
  pixelHash ⟨0, 0, 0, 0⟩ = 0 ∧ pixelHash ⟨0, 0, 0, 255⟩ = 53 ∧ pixelHash ⟨255, 255, 255, 255⟩ = 38 ∧
  pixelHash ⟨10, 20, 30, 255⟩ = 9 ∧ pixelHash ⟨10, 10, 10, 255⟩ = 11 ∧ pixelHash ⟨250, 10, 10, 255⟩ = 27

/-- R121: a store changes the slot its pixel's hash names and no other, keeps every slot legal, and
changes nothing where the slot holds the pixel already; the cache a pass starts from is legal. -/
def Obligations.CacheStoreIsDirectMapped : Prop :=
  (∀ (x : Cache) (p : Pixel) (k : Slot), (cacheStore x p)[k] = if k = pixelHash p then p else x[k]) ∧
    (∀ (x : Cache) (p : Pixel), CacheLegal x → CacheLegal (cacheStore x p)) ∧
    (∀ (x : Cache) (p : Pixel), x[pixelHash p] = p → cacheStore x p = x) ∧
    CacheLegal (Vector.replicate 64 Config.zeroPixel)

/-- R7 and D5: every build's DELTA obeys the law, the default build's is the signed 8-bit difference,
and every function that obeys the law is some build's DELTA (the model's choice of data, log 2). -/
def Obligations.DeltaParameterIsExactlyTheLaw : Prop :=
  (∀ (cfg : Config.Params) (c q : Byte), (delta cfg c q - ((c.toNat : Int) - q.toNat)) % 256 = 0) ∧
    (∀ c q : Byte, -128 ≤ delta Config.Params.default c q ∧ delta Config.Params.default c q ≤ 127) ∧
    ∀ f : Byte → Byte → Int, (∀ c q : Byte, (f c q - ((c.toNat : Int) - q.toNat)) % 256 = 0) →
      ∃ cfg : Config.Params, ∀ c q : Byte, delta cfg c q = f c q

/-! ## The six opcodes -/

/-- R183, R181, R189: RGB completes in every state, with its pixel, and changes nothing else. -/
def Obligations.RgbCompletes : Prop :=
  ∀ (r g b : Byte) (s : State),
    ∃ t, exec (.rgb r g b) s = .next t ∧ OpcodeEffect 4 ⟨r, g, b, s.prev.a⟩ 1 s t

/-- R184, R181, R189: RGBA completes in every state, with its pixel, and changes nothing else. -/
def Obligations.RgbaCompletes : Prop :=
  ∀ (r g b a : Byte) (s : State),
    ∃ t, exec (.rgba r g b a) s = .next t ∧ OpcodeEffect 5 ⟨r, g, b, a⟩ 1 s t

/-- R185, R181, R189: INDEX completes in every state, with the cached pixel, written or not, and
changes nothing else. -/
def Obligations.IndexCompletes : Prop :=
  ∀ (k : Slot) (s : State), ∃ t, exec (.index k) s = .next t ∧ OpcodeEffect 1 s.cache[k] 1 s t

/-- R186, R181, R189: DIFF completes in every state; each colour channel is PREV's plus its delta,
modulo 256, alpha is PREV's, and nothing else changes. The reduction is the spec's decision D6. -/
def Obligations.DiffCompletes : Prop :=
  ∀ (dr dg db : Int) (s : State),
    ∃ (t : State) (p : Pixel), exec (.diff dr dg db) s = .next t ∧ OpcodeEffect 1 p 1 s t ∧
      (p.r.toNat : Int) = ((s.prev.r.toNat : Int) + dr) % 256 ∧
      (p.g.toNat : Int) = ((s.prev.g.toNat : Int) + dg) % 256 ∧
      (p.b.toNat : Int) = ((s.prev.b.toNat : Int) + db) % 256 ∧ p.a = s.prev.a

/-- R187, R181, R189: LUMA completes in every state; red and blue are PREV's plus the green delta plus
their cross delta, green PREV's plus the green delta, modulo 256, alpha PREV's, and nothing else
changes. The reduction is the spec's decision D6. -/
def Obligations.LumaCompletes : Prop :=
  ∀ (dg drg dbg : Int) (s : State),
    ∃ (t : State) (p : Pixel), exec (.luma dg drg dbg) s = .next t ∧ OpcodeEffect 2 p 1 s t ∧
      (p.r.toNat : Int) = ((s.prev.r.toNat : Int) + dg + drg) % 256 ∧
      (p.g.toNat : Int) = ((s.prev.g.toNat : Int) + dg) % 256 ∧
      (p.b.toNat : Int) = ((s.prev.b.toNat : Int) + dg + dbg) % 256 ∧ p.a = s.prev.a

/-- R188, R181, R189: a RUN that fits completes: PREV n times, PREV stored in the cache once, and
nothing else changes. -/
def Obligations.RunCompletes : Prop :=
  ∀ (n : Nat) (s : State), (Instr.run n).wf = true → s.pxo + n ≤ s.pixelCount →
    ∃ t, exec (.run n) s = .next t ∧ OpcodeEffect 1 s.prev n s t

/-- R188 (decision D7) with R236 and R237: a RUN that would pass the pixel count takes
FormatError(RunOverrun) before it produces anything, and the decode pass hands over no pixel (that
PIX then holds no byte is the model's rendering of R237, log 15). -/
def Obligations.RunOverrunTakesItsFault : Prop :=
  ∀ (n : Nat) (s : State), s.mode = .decode → s.pixelCount < s.pxo + n →
    ∃ t, exec (.run n) s = .next t ∧ t.status = .fault ∧ t.fclass = some .formatError ∧
      t.fcause = some .runOverrun ∧ t.pixMem = [] ∧ t.pixLen = 0 ∧
      t.inMem = s.inMem ∧ t.inLen = s.inLen ∧ t.outMem = s.outMem ∧ t.hostq = s.hostq ∧ t.cfg = s.cfg

/-- R189: after each of the six opcodes PREV is the pixel it produced and that pixel stands in the
slot its hash names, no other slot changed; the pixel is computed from PREV and CACHE as they were
before. -/
def Obligations.PostUpdateFollowsEveryOpcode : Prop :=
  ∀ (i : Instr) (s : State), i.wf = true → (∀ n, i = .run n → s.pxo + n ≤ s.pixelCount) →
    ∃ t, exec i s = .next t ∧
      t.prev = opcodePixel i ⟨s.prev, s.cache⟩ ∧
      t.cache[pixelHash t.prev] = t.prev ∧
      ∀ k : Slot, k ≠ pixelHash t.prev → t.cache[k] = s.cache[k]

/-! ## The decoder's step -/

/-- R181: where the stream's bytes at IPTR are a whole opcode and pixels are still due, the step is the
execution of that opcode, and nothing is added around it. -/
def Obligations.StepRunsTheDecodedOpcode : Prop :=
  ∀ (s : State) (bs : List Byte) (i : Instr), s.Decoding → s.pxo ≠ s.pixelCount →
    decode bs = .ok (i, []) → s.StreamHolds bs → step s = exec i s

/-- R190: with pixels still due, a stream that ends at IPTR or inside the opcode at IPTR takes
FormatError(TruncatedStream), before that opcode has any effect: no pixel is handed over (log 15). -/
def Obligations.TruncatedStreamTakesItsFault : Prop :=
  ∀ s : State, s.Decoding → s.pxo < s.pixelCount →
    (s.iptr = s.streamLen ∨
      ∃ b0, s.iptr < s.streamLen ∧ s.inMem.read (streamOffset s.iptr) = some b0 ∧
        s.streamLen < s.iptr + oplen b0) →
    ∃ t, step s = .next t ∧ t.status = .fault ∧ t.fclass = some .formatError ∧
      t.fcause = some .truncatedStream ∧ t.pixMem = [] ∧ t.pixLen = 0

/-- R182 and R267: with N pixels produced the pass ends at once, successfully where the stream is used
up (the results stay), else with FormatError(TrailingBytes), whatever the remaining bytes are, and no
pixel is handed over (log 15). -/
def Obligations.EndTestDecidesThePass : Prop :=
  ∀ s : State, s.Decoding → s.pxo = s.pixelCount →
    (s.iptr = s.streamLen →
      ∃ t, step s = .next t ∧ t.status = .done ∧ t.header = s.header ∧ t.pixMem = s.pixMem ∧
        t.pixLen = s.pixLen) ∧
    (s.iptr ≠ s.streamLen →
      ∃ t, step s = .next t ∧ t.status = .fault ∧ t.fclass = some .formatError ∧
        t.fcause = some .trailingBytes ∧ t.pixMem = [] ∧ t.pixLen = 0)

/-- R191: a decoder step that does not end the pass consumes 1 to 5 bytes and produces 1 to 62
pixels. -/
def Obligations.DecoderStepMakesProgress : Prop :=
  ∀ s t : State, s.Decoding → step s = .next t → t.status = .busy →
    s.iptr < t.iptr ∧ t.iptr ≤ s.iptr + 5 ∧ s.pxo < t.pxo ∧ t.pxo ≤ s.pxo + 62

/-! ## The encoder -/

/-- R154 to R159: the opcode the ordered tests select for a pixel that is no repeat, and the cache
after it. -/
def Obligations.SelectionFollowsTheOrderedTests : Prop :=
  ∀ (cfg : Config.Params) (prev : Pixel) (cache : Cache) (p : Pixel),
    (cache[pixelHash p] = p →
      selectOpcode cfg prev cache p = .index (pixelHash p) ∧ cacheAfter cache p = cache) ∧
    (cache[pixelHash p] ≠ p →
      cacheAfter cache p = cache.set (pixelHash p) p ∧
      (p.a ≠ prev.a → selectOpcode cfg prev cache p = .rgba p.r p.g p.b p.a) ∧
      (p.a = prev.a → ∀ dr dg db : Int, dr = delta cfg p.r prev.r → dg = delta cfg p.g prev.g →
        db = delta cfg p.b prev.b →
        ((-2 ≤ dr ∧ dr ≤ 1) ∧ (-2 ≤ dg ∧ dg ≤ 1) ∧ (-2 ≤ db ∧ db ≤ 1) →
          selectOpcode cfg prev cache p = .diff dr dg db) ∧
        (¬ ((-2 ≤ dr ∧ dr ≤ 1) ∧ (-2 ≤ dg ∧ dg ≤ 1) ∧ (-2 ≤ db ∧ db ≤ 1)) →
          (-32 ≤ dg ∧ dg ≤ 31) ∧ (-8 ≤ dr - dg ∧ dr - dg ≤ 7) ∧ (-8 ≤ db - dg ∧ db - dg ≤ 7) →
          selectOpcode cfg prev cache p = .luma dg (dr - dg) (db - dg)) ∧
        (¬ ((-2 ≤ dr ∧ dr ≤ 1) ∧ (-2 ≤ dg ∧ dg ≤ 1) ∧ (-2 ≤ db ∧ db ≤ 1)) →
          ¬ ((-32 ≤ dg ∧ dg ≤ 31) ∧ (-8 ≤ dr - dg ∧ dr - dg ≤ 7) ∧ (-8 ≤ db - dg ∧ db - dg ≤ 7)) →
          selectOpcode cfg prev cache p = .rgb p.r p.g p.b)))

/-- R152: a pixel equal to PREV is counted; the RUN is emitted where the count reaches 62 or the pixel
is the last; neither PREV nor CACHE nor anything else changes. -/
def Obligations.RunPathCountsOrEmits : Prop :=
  ∀ (s : State), s.Encoding → s.pxi < s.pixelCount → s.pixMem.readPixel s.pxi = some s.prev →
    s.runCount.toNat ≤ 61 →
    (s.runCount.toNat + 1 = 62 ∨ s.pxi = s.pixelCount - 1 →
      step s = .next { s with
        runCount := 0
        pxi := s.pxi + 1
        outMem := s.outMem.write s.optr (BitVec.ofNat 8 (0xC0 + s.runCount.toNat))
        optr := s.optr + 1 }) ∧
    (¬ (s.runCount.toNat + 1 = 62 ∨ s.pxi = s.pixelCount - 1) →
      step s = .next { s with
        runCount := BitVec.ofNat 6 (s.runCount.toNat + 1)
        pxi := s.pxi + 1 })

/-- R153 to R159: a pixel that differs from PREV first flushes a pending run, then emits its own
opcode; RUNCNT is 0, PREV the pixel, the cache as R154 and R155 say, and nothing else changes. -/
def Obligations.EncoderEmitsFlushThenOpcode : Prop :=
  ∀ (s : State) (p : Pixel) (bs : List Byte), s.Encoding → s.pxi < s.pixelCount →
    s.pixMem.readPixel s.pxi = some p → p ≠ s.prev → s.runCount.toNat ≤ 62 →
    bs = (if s.runCount = 0 then [] else [BitVec.ofNat 8 (0xC0 + (s.runCount.toNat - 1))]) ++
      encode (selectOpcode s.cfg s.prev s.cache p) →
    (selectOpcode s.cfg s.prev s.cache p).wf = true ∧
    step s = .next { s with
      prev := p
      cache := cacheAfter s.cache p
      runCount := 0
      pxi := s.pxi + 1
      outMem := s.outMem.writeBytes s.optr bs
      optr := s.optr + bs.length }

/-- R160 and R151: after every encoder step PREV is the pixel the step read, on the run path because it
was already, and the step went on by exactly one pixel. -/
def Obligations.PrevIsThePixelAfterEveryEncoderStep : Prop :=
  ∀ (s : State) (p : Pixel), s.Encoding → s.pxi < s.pixelCount →
    s.pixMem.readPixel s.pxi = some p → s.runCount.toNat ≤ 61 →
    ∃ t, step s = .next t ∧ t.prev = p ∧ t.pxi = s.pxi + 1 ∧ t.status = .busy ∧
      (p = s.prev → t.cache = s.cache) ∧ (p ≠ s.prev → t.cache[pixelHash p] = p) ∧
      t.pixMem = s.pixMem ∧ t.header = s.header

/-- R165 (a) and (b), with R161: at most one opcode a pixel, at most 5 bytes a pixel and at least one
byte per 62 pixels; the opcodes account for every pixel; a RUN directly after a RUN means the first
counted 62. -/
def Obligations.EncodedStreamBounds : Prop :=
  ∀ (cfg : Config.Params) (ps : List Pixel) (ops : List Instr), ops = encodeOps cfg ps EncRegs.start →
    ops.length ≤ ps.length ∧ (encodeData cfg ps).length ≤ 5 * ps.length ∧
    ps.length ≤ 62 * (encodeData cfg ps).length ∧
    (∀ i ∈ ops, i.wf = true) ∧ (ops.map opcodeCount).sum = ps.length ∧
    ∀ (j n m : Nat), ops[j]? = some (.run n) → ops[j + 1]? = some (.run m) → n = 62

/-- R152 (the run-boundary properties S3 and S4 for every length): repeats of the start pixel encode to
RUN 62 as often as it fits and one RUN for the remainder. -/
def Obligations.StartPixelRunsEncode : Prop :=
  ∀ (cfg : Config.Params) (n : Nat),
    encodeOps cfg (List.replicate n Config.startPixel) EncRegs.start =
      List.replicate (n / 62) (.run 62) ++ if n % 62 = 0 then [] else [.run (n % 62)]

/-! ## Encoder and decoder together -/

/-- R123: the exact relation between the encoder's and the decoder's registers holds at the start and
is kept by every pixel, and the slot an INDEX names agrees. -/
def Obligations.RegistersStayInLockStep : Prop :=
  RegsAgree EncRegs.start ⟨Config.startPixel, Vector.replicate 64 Config.zeroPixel⟩ ∧
    ∀ (cfg : Config.Params) (last : Bool) (p : Pixel) (e : EncRegs) (d : DecRegs), RegsAgree e d →
      RegsAgree (encodePixel cfg last p e).2 ((encodePixel cfg last p e).1.foldl DecRegs.after d) ∧
      (p ≠ e.prev → e.cache[pixelHash p] = p → d.cache[pixelHash p] = p)

/-- R193: decoding what the encoder produces gives the pixels back, for every DELTA the law allows;
the converse does not hold. -/
def Obligations.DecodeDataInvertsEncodeData : Prop :=
  (∀ (cfg : Config.Params) (ps : List Pixel), 1 ≤ ps.length →
    decodeData (encodeData cfg ps) ps.length = .ok ps) ∧
  ∃ (bs : List Byte) (n : Nat) (ps : List Pixel), 1 ≤ n ∧ decodeData bs n = .ok ps ∧
    encodeData Config.Params.default ps ≠ bs

/-- R191: on every byte sequence and every count the decoder answers exactly that many pixels or one of
its three stream faults. -/
def Obligations.DecodeDataIsTotal : Prop :=
  ∀ (bs : List Byte) (n : Nat), 1 ≤ n →
    (∃ ps, decodeData bs n = .ok ps ∧ ps.length = n) ∨
      decodeData bs n = .error .truncatedStream ∨ decodeData bs n = .error .trailingBytes ∨
      decodeData bs n = .error .runOverrun

/-- R218: whole-image round trip, for every build whose capacity admits the image. -/
def Obligations.DecodeImageInvertsEncodeImage : Prop :=
  ∀ (cfg : Config.Params) (h : Header) (ps : List Pixel), h.legal = true →
    ps.length = h.pixelCount → exceedsCapacity cfg h.pixelCount = false →
    ∃ bs, encodeImage cfg h ps = .done bs ∧ decodeImage cfg bs = .done (h, ps)

/-- R210 and R218: the two end-to-end examples of the source, as the bytes the spec derives for them
under the default parameters. -/
def Obligations.SourceExamplesEncode : Prop :=
  encodeImage Config.Params.default ⟨2, 1, 4, 0⟩ [⟨0, 0, 0, 255⟩, ⟨0, 0, 0, 255⟩] =
    .done [0x71, 0x6F, 0x69, 0x66, 0, 0, 0, 2, 0, 0, 0, 1, 4, 0, 0xC1, 0, 0, 0, 0, 0, 0, 0, 1] ∧
  encodeImage Config.Params.default ⟨1, 3, 3, 0⟩
      [⟨10, 10, 10, 255⟩, ⟨250, 10, 10, 255⟩, ⟨10, 10, 10, 255⟩] =
    .done [0x71, 0x6F, 0x69, 0x66, 0, 0, 0, 1, 0, 0, 0, 3, 3, 0, 0xAA, 0x88, 0xFE, 0xFA, 0x0A, 0x0A,
      0x0B, 0, 0, 0, 0, 0, 0, 0, 1]

/-! ## Whole passes on the machine -/

/-- R210, R163 and D27: given the host's commands of an encode pass, the machine's steps compute
`encodeImage`: the same container in OUT, the same fault, or the capacity refusal. The number of
steps counts the three host commands, the framing, one step a pixel and the closing (log 11). The
model's choices it rests on: that the capacity is tested before len(PIX) (log 8), that a refused pass has
no next state (log 28), that the header registers stay after the pass (log 29), and the queue of host
commands (log 12); the causes and their order are the
spec's decisions D10 to D12 (log 9). -/
def Obligations.EncodePassComputesEncodeImage : Prop :=
  ∀ (s : State) (h : Header) (ps : List Pixel), s.status ≠ .busy →
    s.hostq = [.writeHeader h.width h.height h.channels h.colorSpace, .placePixels ps, .start .encode] →
    (∀ bs, encodeImage s.cfg h ps = .done bs →
      ∃ t : State, Sys2Proof.core.run (ps.length + 5) s = .next t ∧ t.status = .done ∧
        t.outMem = Memory.ofBytes bs ∧ t.optr = bs.length ∧ t.header = h ∧
        t.pixMem = Memory.ofPixels ps) ∧
    (∀ c, encodeImage s.cfg h ps = .fault c →
      ∃ t : State, Sys2Proof.core.run 4 s = .next t ∧ t.status = .fault ∧
        t.fclass = some .invalidInput ∧ t.fcause = some c) ∧
    (encodeImage s.cfg h ps = .refused → Sys2Proof.core.run 4 s = .refused .capacity)

/-- R211, R192, R191 and D27: given the host's commands of a decode pass, the machine's steps compute
`decodeImage`, within the bound of R191: the two host commands, the framing and at most |S| + 1
decoder steps (log 11). The causes, the end-marker test and the capacity refusal are the spec's decisions
D12, D8, D7 and D9 (logs 6 to 9); where the capacity is tested, what follows a refusal and the queue of
host commands are the model's choices (log 8, log 28, log 12). -/
def Obligations.DecodePassComputesDecodeImage : Prop :=
  ∀ (s : State) (bs : List Byte), s.status ≠ .busy → s.hostq = [.placeInput bs, .start .decode] →
    (∀ h ps, decodeImage s.cfg bs = .done (h, ps) →
      ∃ (k : Nat) (t : State), k ≤ 3 + (bs.length - 14 - s.cfg.endLen + 1) ∧
        Sys2Proof.core.run k s = .next t ∧ t.status = .done ∧ t.header = h ∧
        t.pixMem = Memory.ofPixels ps ∧ t.pixLen = ps.length) ∧
    (∀ c, decodeImage s.cfg bs = .fault c →
      ∃ (k : Nat) (t : State), k ≤ 3 + (bs.length - 14 - s.cfg.endLen + 1) ∧
        Sys2Proof.core.run k s = .next t ∧ t.status = .fault ∧ t.fclass = some .formatError ∧
        t.fcause = some c) ∧
    (decodeImage s.cfg bs = .refused → Sys2Proof.core.run 3 s = .refused .capacity)

/-! ## Framing -/

/-- R210: an encode pass whose header is legal, whose size the build admits and whose PIX has N pixels
begins by writing the 14 header bytes at OPTR; everything else stays. -/
def Obligations.EncodeFramingWritesTheHeader : Prop :=
  ∀ (s : State), s.status = .busy → s.mode = .encode → s.phase = .framing → s.header.legal = true →
    exceedsCapacity s.cfg s.pixelCount = false → s.pixLen = s.pixelCount →
    ∃ (t : State) (hdr : List Byte), encodeHeader s.cfg s.header = .ok hdr ∧ step s = .next t ∧
      t = { s with outMem := t.outMem, optr := s.optr + 14, phase := .stream } ∧
      t.outMem.readBytes s.optr 14 = some hdr ∧
      ∀ a, a < s.optr ∨ s.optr + 14 ≤ a → t.outMem.read a = s.outMem.read a

/-- R234, R215 and R235: the faults of an encode pass are taken in the framing, in their order, and
leave no output (log 15). The causes and their order are the spec's decisions D10 to D12 (log 9). -/
def Obligations.EncodeFramingFaultsInOrder : Prop :=
  ∀ (s : State), s.status = .busy → s.mode = .encode → s.phase = .framing →
    (∀ c, encodeHeader s.cfg s.header = .error c →
      ∃ t, step s = .next t ∧ t.status = .fault ∧ t.fclass = some .invalidInput ∧ t.fcause = some c ∧
        t.outMem = []) ∧
    (s.header.legal = true → exceedsCapacity s.cfg s.pixelCount = false → s.pixLen ≠ s.pixelCount →
      ∃ t, step s = .next t ∧ t.status = .fault ∧ t.fclass = some .invalidInput ∧
        t.fcause = some .bufferLengthMismatch ∧ t.outMem = [])

/-- R210, R264 and R267: at PXI = N the end marker follows the stream, OPTR is the length of OUT, and
the pass is DONE; PIX stays, and the header registers too (the latter is the model's choice, log 29). -/
def Obligations.EncodeClosingAppendsTheEndMarker : Prop :=
  ∀ (s : State), s.Encoding → s.pxi = s.pixelCount →
    ∃ t, step s = .next t ∧ t.status = .done ∧ t.optr = s.optr + s.cfg.endLen ∧
      t.outMem.readBytes s.optr s.cfg.endLen = some s.cfg.endMarker ∧
      (∀ a, a < s.optr ∨ s.optr + s.cfg.endLen ≤ a → t.outMem.read a = s.outMem.read a) ∧
      t.header = s.header ∧ t.pixMem = s.pixMem ∧ t.pixLen = s.pixLen

/-- R211 to R213, R234: the checks of a decode pass in their order, on the bytes of IN: the length, the
header, the end marker; then the stream begins at IPTR, with the header registers written. The test of
the end marker and the order are the spec's decisions D8 and D25 (log 7, log 9). -/
def Obligations.DecodeFramingChecksInOrder : Prop :=
  ∀ (s : State), s.status = .busy → s.mode = .decode → s.phase = .framing →
    (s.inLen < 14 + s.cfg.endLen →
      ∃ t, step s = .next t ∧ t.status = .fault ∧ t.fclass = some .formatError ∧
        t.fcause = some .badLength) ∧
    ∀ hb trl : List Byte, 14 + s.cfg.endLen ≤ s.inLen → s.inMem.readBytes 0 14 = some hb →
      s.inMem.readBytes (s.inLen - s.cfg.endLen) s.cfg.endLen = some trl →
      (∀ c, decodeHeader s.cfg hb = .error c →
        ∃ t, step s = .next t ∧ t.status = .fault ∧ t.fclass = some .formatError ∧ t.fcause = some c) ∧
      (∀ h, decodeHeader s.cfg hb = .ok h → exceedsCapacity s.cfg h.pixelCount = false →
        (trl ≠ s.cfg.endMarker →
          ∃ t, step s = .next t ∧ t.status = .fault ∧ t.fclass = some .formatError ∧
            t.fcause = some .badEndMarker) ∧
        (trl = s.cfg.endMarker →
          step s = .next { s with
            width := h.width
            height := h.height
            channels := h.channels
            colorSpace := h.colorSpace
            phase := .stream }))

/-- R243 and R101: a pass of more pixels than MAX_PIXELS is refused before any pixel or opcode, in
either mode (that the test precedes the length of PIX and the end marker is the model's choice,
log 8, and that a refused pass has no next state too, log 28); with MAX_PIXELS unbounded no step is
refused for capacity. -/
def Obligations.CapacityIsRefused : Prop :=
  (∀ s : State, s.status = .busy → s.mode = .encode → s.phase = .framing → s.header.legal = true →
    exceedsCapacity s.cfg s.pixelCount = true → step s = .refused .capacity) ∧
  (∀ (s : State) (hb : List Byte) (h : Header), s.status = .busy → s.mode = .decode →
    s.phase = .framing → 14 + s.cfg.endLen ≤ s.inLen → s.inMem.readBytes 0 14 = some hb →
    decodeHeader s.cfg hb = .ok h → exceedsCapacity s.cfg h.pixelCount = true →
    step s = .refused .capacity) ∧
  ∀ s : State, s.cfg.maxPixels = none → step s ≠ .refused .capacity

/-! ## Faults, start, host -/

/-- R236 and R239: `raise` records the class and the cause and sets STATUS to FAULT; it enters no
handler, and without a host command no further step does anything (the spec's decision D13; that MODE keeps its
value is the model's choice, log 29). -/
def Obligations.RaiseEndsThePass : Prop :=
  ∀ (c : FaultCause) (s : State),
    (s.raise c).fclass = some c.faultClass ∧ (s.raise c).fcause = some c ∧
    (s.raise c).status = .fault ∧ (s.raise c).mode = s.mode ∧ (s.raise c).cfg = s.cfg ∧
    (s.raise c).inMem = s.inMem ∧ (s.raise c).inLen = s.inLen ∧ (s.raise c).hostq = s.hostq ∧
    (s.hostq = [] → step (s.raise c) = .next (s.raise c))

/-- R231 and R232: the class and the number of every cause, and R230's class numbers. The causes and the
numbers are the spec's refinement of the source's two classes, decision D12 (log 9). -/
def Obligations.CauseNumbersAreTheTables : Prop :=
  FaultClass.formatError.code = 1 ∧ FaultClass.invalidInput.code = 2 ∧
  [FaultCause.badLength, .badMagic, .badChannels, .badColorSpace, .zeroDimension, .badEndMarker,
    .truncatedStream, .trailingBytes, .runOverrun].map (fun c => (c.faultClass, c.code)) =
    [(.formatError, 1), (.formatError, 2), (.formatError, 3), (.formatError, 4), (.formatError, 5),
      (.formatError, 6), (.formatError, 7), (.formatError, 8), (.formatError, 9)] ∧
  [FaultCause.imageBadChannels, .imageBadColorSpace, .imageZeroDimension, .bufferLengthMismatch,
    .notRectangular, .badPixelWidth, .payloadRange].map (fun c => (c.faultClass, c.code)) =
    [(.invalidInput, 1), (.invalidInput, 2), (.invalidInput, 3), (.invalidInput, 4),
      (.invalidInput, 5), (.invalidInput, 6), (.invalidInput, 7)]

/-- R261: START is taken only while STATUS is not BUSY, and as one action loads the values of R35. The
host's own buffers stay (the command is the spec's decision D14); the pass's result buffer is a new,
empty one (R51 and R53 as the model reads them, log 17). -/
def Obligations.StartCommandLoadsThePass : Prop :=
  (∀ (s : State) (m : Mode) (q : List HostCmd), s.status ≠ .busy → s.hostq = .start m :: q →
    ∃ t, step s = .next t ∧ t.mode = m ∧ t.status = .busy ∧ t.AtStart ∧ t.fclass = none ∧
      t.fcause = none ∧ t.hostq = q ∧ t.cfg = s.cfg ∧ t.inMem = s.inMem ∧ t.inLen = s.inLen ∧
      (m = .encode → t.header = s.header ∧ t.pixMem = s.pixMem ∧ t.pixLen = s.pixLen ∧ t.outMem = []) ∧
      (m = .decode → t.pixMem = [] ∧ t.pixLen = 0 ∧ t.outMem = s.outMem)) ∧
  ∀ s t : State, s.status = .busy → step s = .next t → t.hostq = s.hostq

/-- R263: the host's other commands between passes, each with all it changes. PIX holds the pixels as
bytes r, g, b, a at offsets 4i to 4i + 3 (R53, the spec's decision D22). That the commands wait in a
queue of the state (log 12), that the header registers take every value the host writes, legal or not,
until the pass tests them (log 24, a reading of R24 and R100), and that an offset beyond what was placed
reads as no value (log 18) are the model's. -/
def Obligations.HostPreparesThePass : Prop :=
  ∀ (s : State) (q : List HostCmd), s.status ≠ .busy →
    (∀ w h ch cs, s.hostq = .writeHeader w h ch cs :: q →
      step s = .next { s with hostq := q, width := w, height := h, channels := ch, colorSpace := cs }) ∧
    (∀ ps, s.hostq = .placePixels ps :: q →
      ∃ t, step s = .next t ∧
        t = { s with hostq := q, pixMem := t.pixMem, pixLen := ps.length } ∧ t.pixMem.wf = true ∧
        (∀ i, t.pixMem.readPixel i = ps[i]?) ∧
        ∀ i p, ps[i]? = some p →
          t.pixMem.read (4 * i) = some p.r ∧ t.pixMem.read (4 * i + 1) = some p.g ∧
          t.pixMem.read (4 * i + 2) = some p.b ∧ t.pixMem.read (4 * i + 3) = some p.a) ∧
    (∀ bs, s.hostq = .placeInput bs :: q →
      ∃ t, step s = .next t ∧
        t = { s with hostq := q, inMem := t.inMem, inLen := bs.length } ∧ t.inMem.wf = true ∧
        ∀ a, t.inMem.read a = bs[a]?)

/-- R260 and R266: while no pass runs and the host sends nothing, no step changes anything: results and
fault registers are stable. -/
def Obligations.NothingHappensWithoutAHostCommand : Prop :=
  ∀ s : State, s.status ≠ .busy → s.hostq = [] → step s = .next s

/-- R260 and R36: after power-on STATUS is IDLE and no host command waits (the latter is the model's
choice, log 10); and from any state with STATUS IDLE, whatever the registers and buffers the spec leaves
unspecified hold, the block does nothing until the host acts, and only START ends IDLE. -/
def Obligations.ResetIsIdle : Prop :=
  State.reset.status = .idle ∧ State.reset.hostq = [] ∧
    ∀ s : State, s.status = .idle →
      (s.hostq = [] → step s = .next s) ∧
      ∃ t, step s = .next t ∧
        (t.status = .idle ∨ ∃ m q, s.hostq = .start m :: q ∧ t.status = .busy ∧ t.mode = m)

/-! ## Invariants and whole-machine rules -/

/-- The state after power-on is legal. The registers' values in it are the model's choice (log 10). -/
def Obligations.ResetIsLegal : Prop := State.reset.Inv

/-- R23, R28, R121, R161, R182, R31, R51 (and the canonical form of the buffers, log 18): every step
from a legal state leads to a legal state. -/
def Obligations.StepKeepsLegality : Prop :=
  ∀ s t : State, s.Inv → step s = .next t → t.Inv

/-- R191, R164 and R240: a legal state never sticks: every step answers a next state, or the capacity
refusal of R243; no fault of the model's own and no unreachable point is met. -/
def Obligations.LegalStatesNeverStick : Prop := ∀ s : State, s.Inv → s.StepSafe

/-- R52, R63, R265 and R34: while a pass runs no step writes IN, takes a host command or changes MODE;
no step at all changes the parameters. That MODE and an encode pass's header registers are unchanged by the
step that ends the pass too is the model's choice (log 29), as after an encode fault (log 15). -/
def Obligations.PassesNeverWriteTheirInput : Prop :=
  ∀ s t : State, step s = .next t →
    t.cfg = s.cfg ∧
    (s.status = .busy →
      t.inMem = s.inMem ∧ t.inLen = s.inLen ∧ t.hostq = s.hostq ∧ t.mode = s.mode ∧
      (s.mode = .encode → t.pixMem = s.pixMem ∧ t.header = s.header) ∧
      (s.mode = .decode → t.outMem = s.outMem))

/-- R58: no offset of OUT (encode) or PIX (decode) below the cursor is written again while the pass
goes on or succeeds, and the cursor never moves back. -/
def Obligations.ResultsAreAppendOnly : Prop :=
  ∀ s t : State, s.status = .busy → s.phase = .stream → step s = .next t → t.status ≠ .fault →
    (s.mode = .encode → s.optr ≤ t.optr ∧ ∀ a, a < s.optr → t.outMem.read a = s.outMem.read a) ∧
    (s.mode = .decode → (t.status = .busy → s.pxo ≤ t.pxo) ∧
      ∀ a, a < 4 * s.pxo → t.pixMem.read a = s.pixMem.read a)

/-- R150, R180, R216 and R217: in the opcode stream the header registers matter only through N: with
any other header of the same pixel count the step is the same, in all but those registers. That they stay
at the successful end of an encode pass is the model's choice (log 29). -/
def Obligations.StreamIgnoresTheHeaderButN : Prop :=
  ∀ (s t : State) (h : Header), s.status = .busy → s.phase = .stream → h.pixelCount = s.pixelCount →
    step s = .next t → t.status ≠ .fault → step (s.setHeader h) = .next (t.setHeader h)

/-- R25, R101 and R8: N is the exact product, it fits 64 bits, and it is not reduced modulo 2^32. -/
def Obligations.PixelCountIsExact : Prop :=
  (∀ s : State, s.pixelCount = s.width.toNat * s.height.toNat ∧ s.pixelCount < 2 ^ 64) ∧
    pixelCountOf 65536 65536 = 2 ^ 32

/-! ## The pixel grid -/

/-- R214, R215 and R53: PIX is row-major. Every index below N is that of exactly one row and column of
the grid; the pixel there is the sequence's pixel y × W + x, and pixel x of row y; a grid of H rows of W
pixels is made flat and split again without loss, either way; and unequal rows are NotRectangular. -/
def Obligations.PixelBufferIsRowMajor : Prop :=
  (∀ (s : State) (i : Nat), i < s.pixelCount →
    ∃ y x, y < s.height.toNat ∧ x < s.width.toNat ∧ pixelIndex s.width y x = i ∧
      ∀ y' x', x' < s.width.toNat → pixelIndex s.width y' x' = i → y' = y ∧ x' = x) ∧
  (∀ (s : State) (ps : List Pixel) (y x : Nat), s.pixMem = Memory.ofPixels ps →
    ps.length = s.pixelCount → y < s.height.toNat → x < s.width.toNat →
    ∃ p, s.pixelAt y x = some p ∧ ps[y * s.width.toNat + x]? = some p ∧
      (splitRows s.width.toNat s.height.toNat ps)[y]?.bind (·[x]?) = some p) ∧
  (∀ (w h : Nat) (rows : List (List Pixel)), rows.length = h → (∀ row ∈ rows, row.length = w) →
    ∃ ps, flattenGrid rows = .ok ps ∧ ps.length = w * h ∧ splitRows w h ps = rows) ∧
  (∀ (w h : Nat) (ps : List Pixel), ps.length = w * h →
    (∀ row ∈ splitRows w h ps, row.length = w) ∧ flattenGrid (splitRows w h ps) = .ok ps) ∧
  ∀ (rows : List (List Pixel)) (r1 r2 : List Pixel), r1 ∈ rows → r2 ∈ rows → r1.length ≠ r2.length →
    flattenGrid rows = .error .notRectangular
end

