-- ==== Sys2Proof/Laws/Decode.lean ====
section
/-! SUPPORT. The laws of the decoder and the packers: what a bit slice can be, when bytes decode, and
how long the decoded opcode is. -/

namespace Sys2Proof

theorem bits_lt (b : Byte) (hi lo : Nat) : bits b hi lo < 2 ^ (hi - lo + 1) :=
  Nat.mod_lt _ (by positivity)

theorem bits_top_cases (b : Byte) :
    bits b 7 6 = 0 ∨ bits b 7 6 = 1 ∨ bits b 7 6 = 2 ∨ bits b 7 6 = 3 := by
  have := bits_lt b 7 6
  omega

theorem oplen_pos (b0 : Byte) : 0 < oplen b0 := by unfold oplen; split_ifs <;> omega

theorem oplen_le (b0 : Byte) : oplen b0 ≤ maxOplen := by unfold oplen maxOplen; split_ifs <;> omega

/-- A byte that is no literal tag and whose top two bits are not LUMA's is one byte long. -/
theorem oplen_one {b : Byte} (h : b.toNat < 0x80 ∨ (0xC0 ≤ b.toNat ∧ b.toNat ≤ 0xFD)) : oplen b = 1 := by
  have h1 : b ≠ tagRgb := by rintro rfl; revert h; decide
  have h2 : b ≠ tagRgba := by rintro rfl; revert h; decide
  have h3 : bits b 7 6 ≠ 2 := by
    unfold bits; simp; omega
  simp [oplen, h1, h2, h3]

/-- A byte 0x80 to 0xBF is LUMA's tag byte, two bytes long. -/
theorem oplen_two {b : Byte} (h : 0x80 ≤ b.toNat ∧ b.toNat ≤ 0xBF) : oplen b = 2 := by
  have h1 : b ≠ tagRgb := by rintro rfl; revert h; decide
  have h2 : b ≠ tagRgba := by rintro rfl; revert h; decide
  have h3 : bits b 7 6 = 2 := by
    unfold bits; simp; omega
  simp [oplen, h1, h2, h3]

/-- Every tag byte with as many bytes as its length says decodes, to an opcode of that length, with
no byte left (R77, R80). -/
theorem decode_whole (b0 : Byte) (rest : List Byte) (h : (b0 :: rest).length = oplen b0) :
    ∃ i, decode (b0 :: rest) = .ok (i, []) ∧ i.length = oplen b0 := by
  unfold oplen at *
  by_cases h1 : b0 = tagRgb
  · simp only [h1, if_true] at h ⊢
    match rest, h with
    | [r, g, b], _ => exact ⟨.rgb r g b, by simp [decode], rfl⟩
  by_cases h2 : b0 = tagRgba
  · simp only [h2, if_true, if_neg (show ¬ tagRgba = tagRgb by decide)] at h ⊢
    match rest, h with
    | [r, g, b, a], _ => exact ⟨.rgba r g b a, by simp [decode, show ¬ tagRgba = tagRgb by decide], rfl⟩
  simp only [h1, h2, if_false] at h ⊢
  rcases bits_top_cases b0 with ht | ht | ht | ht <;> simp only [ht] at h ⊢
  · have : rest = [] := by simpa using h
    subst this; exact ⟨.index (unpackIndex b0), by simp [decode, h1, h2, ht], rfl⟩
  · have : rest = [] := by simpa using h
    subst this; exact ⟨.diff (unpackDiff b0).1 (unpackDiff b0).2.1 (unpackDiff b0).2.2, by simp [decode, h1, h2, ht], rfl⟩
  · match rest, h with
    | [b1], _ => exact ⟨.luma (unpackLuma b0 b1).1 (unpackLuma b0 b1).2.1 (unpackLuma b0 b1).2.2, by simp [decode, h1, h2, ht], rfl⟩
  · have : rest = [] := by simpa using h
    subst this; exact ⟨.run (unpackRun b0), by simp [decode, h1, h2, ht], rfl⟩

/-- A decoded opcode is as long as its tag byte says, and its bytes are exactly those before the
rest. -/
theorem decode_ok_length {bs rest : List Byte} {i : Instr} (h : decode bs = .ok (i, rest)) :
    ∃ b0 more, bs = b0 :: more ∧ i.length = oplen b0 ∧ bs.length = oplen b0 + rest.length := by
  match bs with
  | [] => simp [decode] at h
  | b0 :: more =>
    refine ⟨b0, more, rfl, ?_⟩
    unfold oplen
    by_cases h1 : b0 = tagRgb
    · match more with
      | r :: g :: b :: m =>
        simp only [decode, h1, if_true, Except.ok.injEq, Prod.mk.injEq] at h
        obtain ⟨rfl, rfl⟩ := h
        simp [h1, Instr.length]; omega
      | [] | [_] | [_, _] => simp [decode, h1] at h
    by_cases h2 : b0 = tagRgba
    · have h3 : ¬ tagRgba = tagRgb := by decide
      match more with
      | r :: g :: b :: a :: m =>
        simp only [decode, h2, h3, if_true, if_false, Except.ok.injEq, Prod.mk.injEq] at h
        obtain ⟨rfl, rfl⟩ := h
        simp [h2, h3, Instr.length]; omega
      | [] | [_] | [_, _] | [_, _, _] => simp [decode, h2, h3] at h
    rcases bits_top_cases b0 with ht | ht | ht | ht
    · simp only [decode, h1, h2, ht, if_false, Except.ok.injEq, Prod.mk.injEq] at h
      obtain ⟨rfl, rfl⟩ := h
      simp [h1, h2, ht, Instr.length]; omega
    · simp only [decode, h1, h2, ht, if_false, Except.ok.injEq, Prod.mk.injEq] at h
      obtain ⟨rfl, rfl⟩ := h
      simp [h1, h2, ht, Instr.length]; omega
    · match more with
      | b1 :: m =>
        simp only [decode, h1, h2, ht, if_false, Except.ok.injEq, Prod.mk.injEq] at h
        obtain ⟨rfl, rfl⟩ := h
        simp [h1, h2, ht, Instr.length]; omega
      | [] => simp [decode, h1, h2, ht] at h
    · simp only [decode, h1, h2, ht, if_false, Except.ok.injEq, Prod.mk.injEq] at h
      obtain ⟨rfl, rfl⟩ := h
      simp [h1, h2, ht, Instr.length]; omega

end Sys2Proof

namespace Sys2Proof.Machine

/-- The packers answer the encoding of a well-formed instruction and the range fault of any other
(R130). -/
theorem pack_ok {i : Instr} (h : i.wf = true) : pack i = .ok (encode i) := by simp [pack, h]

theorem pack_error {i : Instr} (h : i.wf = false) : pack i = .error .payloadRange := by simp [pack, h]

/-- Well-formed opcodes pack to the concatenation of their encodings. -/
theorem packAll_ok {is : List Instr} (h : ∀ i ∈ is, i.wf = true) : packAll is = .ok (is.flatMap encode) := by
  induction is with
  | nil => rfl
  | cons i is ih =>
    simp only [packAll, pack_ok (h i (by simp)), ih fun j hj => h j (by simp [hj]), List.flatMap_cons]

end Sys2Proof.Machine
end

