-- ==== Sys2Proof/Laws/Layout.lean ====
section
/-! SUPPORT. The laws of the row-major order: an index names one row and column of the grid, and a
grid in rows keeps its pixels when it is made flat. -/

namespace Sys2Proof.Machine

/-- A row below H and a column below W name a pixel of the buffer. -/
theorem pixelIndex_lt {w h : BitVec 32} {y x : Nat} (hy : y < h.toNat) (hx : x < w.toNat) :
    pixelIndex w y x < pixelCountOf w h := by
  have := Nat.mul_le_mul_right w.toNat (Nat.succ_le_of_lt hy)
  rw [Nat.succ_mul, Nat.mul_comm h.toNat] at this
  simp only [pixelIndex, pixelCountOf]
  omega

/-- The row of an index. -/
theorem pixelIndex_div {w : BitVec 32} (y : Nat) {x : Nat} (hx : x < w.toNat) :
    pixelIndex w y x / w.toNat = y := by
  rw [pixelIndex, Nat.mul_comm, Nat.mul_add_div (by omega), Nat.div_eq_of_lt hx, Nat.add_zero]

/-- The column of an index. -/
theorem pixelIndex_mod {w : BitVec 32} (y : Nat) {x : Nat} (hx : x < w.toNat) :
    pixelIndex w y x % w.toNat = x := by
  rw [pixelIndex, Nat.mul_comm, Nat.mul_add_mod, Nat.mod_eq_of_lt hx]

/-- Inside the grid a pixel is read at its row-major index. -/
theorem State.pixelAt_eq {s : State} {y x : Nat} (hy : y < s.height.toNat) (hx : x < s.width.toNat) :
    s.pixelAt y x = s.pixMem.readPixel (pixelIndex s.width y x) := if_pos ⟨hy, hx⟩

@[simp] theorem splitRows_zero (w : Nat) (ps : List Pixel) : splitRows w 0 ps = [] := rfl

@[simp] theorem splitRows_succ (w h : Nat) (ps : List Pixel) :
    splitRows w (h + 1) ps = ps.take w :: splitRows w h (ps.drop w) := rfl

@[simp] theorem splitRows_length (w h : Nat) (ps : List Pixel) : (splitRows w h ps).length = h := by
  induction h generalizing ps with
  | zero => rfl
  | succ h ih => simp [ih]

/-- Rows of one length make a rectangular grid. -/
theorem rectangular_of_lengths {rows : List (List Pixel)} {w : Nat} (h : ∀ row ∈ rows, row.length = w) :
    rectangular rows = true := by
  cases rows with
  | nil => rfl
  | cons r rows => simp_all [rectangular]

end Sys2Proof.Machine
end

