-- ==== Sys2Proof/Laws/Memory.lean ====
section
/-! SUPPORT. The laws of the buffers: a read after a write, the canonical form, and what a sequence
of bytes or a pixel reads as. -/

namespace Sys2Proof.Machine

@[simp] theorem Memory.read_nil (a : Nat) : Memory.read [] a = none := rfl

/-- A byte reads as what was written there, in any buffer. -/
@[simp] theorem Memory.read_write_same (m : Memory) (a : Nat) (b : Byte) :
    (m.write a b).read a = some b := by
  induction m with
  | nil => simp [Memory.write, Memory.read]
  | cons c m ih =>
    simp only [Memory.write]
    split
    · rename_i h
      simp [Memory.read, Nat.ne_of_lt h, ih]
    · split <;> simp [Memory.read]

/-- A write leaves every other offset alone. -/
theorem Memory.read_write_other (m : Memory) {a x : Nat} (b : Byte) (h : x ≠ a) :
    (m.write a b).read x = m.read x := by
  induction m with
  | nil => simp [Memory.write, Memory.read, Ne.symm h]
  | cons c m ih =>
    simp only [Memory.write]
    split
    · simp only [Memory.read, ih]
    · split
      · rename_i _ hc
        simp [Memory.read, Ne.symm h, hc]
      · simp [Memory.read, Ne.symm h]

theorem Memory.read_write (m : Memory) (a x : Nat) (b : Byte) :
    (m.write a b).read x = if x = a then some b else m.read x := by
  by_cases h : x = a
  · subst h; simp
  · simp [h, Memory.read_write_other m b h]

/-- Writing keeps a canonical form, above any bound the offset respects. -/
theorem Memory.wfAbove_write (m : Memory) (lo : Option Nat) (a : Nat) (b : Byte)
    (hlo : ∀ l, lo = some l → l < a) (h : Memory.wfAbove lo m = true) :
    Memory.wfAbove lo (m.write a b) = true := by
  induction m generalizing lo with
  | nil =>
    cases lo with
    | none => rfl
    | some l => simp [Memory.write, Memory.wfAbove, hlo l rfl]
  | cons c m ih =>
    have hc : Memory.wfAbove (some c.1) m = true := by
      cases lo <;> simp_all [Memory.wfAbove]
    have hl : ∀ l, lo = some l → l < c.1 := by
      rintro l rfl; simp_all [Memory.wfAbove]
    have keep : ∀ x m', (∀ l, lo = some l → l < x) → Memory.wfAbove (some x) m' = true →
        ∀ y : Byte, Memory.wfAbove lo ((x, y) :: m') = true := by
      intro x m' hx hm y
      cases lo with
      | none => simpa [Memory.wfAbove] using hm
      | some l => simpa [Memory.wfAbove, hx l rfl] using hm
    simp only [Memory.write]
    split
    · rename_i hlt
      exact keep c.1 _ hl (ih (some c.1) (by rintro l ⟨⟩; exact hlt) hc) c.2
    · split
      · rename_i _ he
        exact keep a m hlo (he ▸ hc) b
      · rename_i h1 h2
        refine keep a _ hlo ?_ b
        simp only [Memory.wfAbove, Bool.and_eq_true, decide_eq_true_eq]
        exact ⟨by omega, hc⟩

/-- A write keeps the canonical form. -/
theorem Memory.wf_write {m : Memory} (a : Nat) (b : Byte) (h : m.wf = true) :
    (m.write a b).wf = true :=
  Memory.wfAbove_write m none a b (by simp) h

theorem Memory.wf_nil : Memory.wf [] = true := rfl

theorem Memory.wf_writeBytes {m : Memory} (a : Nat) (bs : List Byte) (h : m.wf = true) :
    (m.writeBytes a bs).wf = true := by
  induction bs generalizing m a with
  | nil => exact h
  | cons b bs ih => exact ih (a + 1) (Memory.wf_write a b h)

theorem Memory.wf_writePixel {m : Memory} (i : Nat) (p : Pixel) (h : m.wf = true) :
    (m.writePixel i p).wf = true :=
  Memory.wf_writeBytes _ _ h

theorem Memory.wfAbove_ofBytesFrom (bs : List Byte) (a l : Nat) (h : l < a) :
    Memory.wfAbove (some l) (Memory.ofBytesFrom a bs) = true := by
  induction bs generalizing a l with
  | nil => rfl
  | cons b bs ih => simp [Memory.ofBytesFrom, Memory.wfAbove, h, ih (a + 1) a (by omega)]

/-- A buffer the host fills is canonical. -/
theorem Memory.wf_ofBytes (bs : List Byte) : (Memory.ofBytes bs).wf = true := by
  cases bs with
  | nil => rfl
  | cons b bs => exact Memory.wfAbove_ofBytesFrom bs 1 0 (by omega)

theorem Memory.wf_ofPixels (ps : List Pixel) : (Memory.ofPixels ps).wf = true :=
  Memory.wf_ofBytes _

/-- What any offset reads as after a byte sequence is written. -/
theorem Memory.read_writeBytes (m : Memory) (a x : Nat) (bs : List Byte) :
    (m.writeBytes a bs).read x =
      if a ≤ x ∧ x < a + bs.length then bs[x - a]? else m.read x := by
  induction bs generalizing m a with
  | nil => simp only [Memory.writeBytes, List.length_nil]; rw [if_neg (by omega)]
  | cons b bs ih =>
    simp only [Memory.writeBytes, ih, Memory.read_write, List.length_cons]
    by_cases hx : x = a
    · subst hx; simp
    · by_cases hin : a + 1 ≤ x ∧ x < a + 1 + bs.length
      · have h2 : a ≤ x ∧ x < a + (bs.length + 1) := by omega
        have h3 : x - a = (x - (a + 1)) + 1 := by omega
        simp [hin, h2, h3]
      · have h2 : ¬(a ≤ x ∧ x < a + (bs.length + 1)) := by omega
        rw [if_neg hin, if_neg h2, if_neg hx]

/-- A byte sequence written leaves every offset outside it alone. -/
theorem Memory.read_writeBytes_outside (m : Memory) (a x : Nat) (bs : List Byte)
    (h : x < a ∨ a + bs.length ≤ x) : (m.writeBytes a bs).read x = m.read x := by
  rw [Memory.read_writeBytes, if_neg (by omega)]

/-- A byte sequence is read back where it was written. -/
theorem Memory.readBytes_eq_some (m : Memory) (a : Nat) (bs : List Byte)
    (h : ∀ i, i < bs.length → m.read (a + i) = bs[i]?) : m.readBytes a bs.length = some bs := by
  induction bs generalizing a with
  | nil => rfl
  | cons b bs ih =>
    have h0 := h 0 (by simp)
    have ht := ih (a + 1) (fun i hi => by
      have := h (i + 1) (by simpa using hi)
      simpa [Nat.add_assoc, Nat.add_comm 1 i] using this)
    simp_all [Memory.readBytes]

theorem Memory.readBytes_writeBytes (m : Memory) (a : Nat) (bs : List Byte) :
    (m.writeBytes a bs).readBytes a bs.length = some bs :=
  Memory.readBytes_eq_some _ _ _ fun i hi => by
    rw [Memory.read_writeBytes, if_pos (by omega)]; simp

/-- A byte sequence read is as long as asked. -/
theorem Memory.readBytes_length {m : Memory} {a n : Nat} {bs : List Byte}
    (h : m.readBytes a n = some bs) : bs.length = n := by
  induction n generalizing a bs with
  | zero => simp [Memory.readBytes] at h; simp [← h]
  | succ n ih =>
    simp only [Memory.readBytes, Option.bind_eq_some_iff, Option.map_eq_some_iff] at h
    obtain ⟨_, _, l, hl, rfl⟩ := h
    simp [ih hl]

/-- Reads of a byte sequence depend on its bytes only. -/
theorem Memory.readBytes_congr {m m' : Memory} {a n : Nat}
    (h : ∀ x, a ≤ x → x < a + n → m.read x = m'.read x) : m.readBytes a n = m'.readBytes a n := by
  induction n generalizing a with
  | zero => rfl
  | succ n ih =>
    simp only [Memory.readBytes]
    rw [h a (by omega) (by omega), ih fun x h1 h2 => h x (by omega) (by omega)]

/-- A pixel is read back where it was written. -/
@[simp] theorem Memory.readPixel_writePixel (m : Memory) (i : Nat) (p : Pixel) :
    (m.writePixel i p).readPixel i = some p := by
  have := Memory.readBytes_writeBytes m (4 * i) (pixelBytes p)
  simp only [Memory.readPixel, Memory.writePixel]
  rw [show (4 : Nat) = (pixelBytes p).length from rfl] at *
  rw [this]; rfl

/-- Writing a pixel leaves every byte outside its four alone. -/
theorem Memory.read_writePixel_outside (m : Memory) (i x : Nat) (p : Pixel)
    (h : x < 4 * i ∨ 4 * (i + 1) ≤ x) : (m.writePixel i p).read x = m.read x :=
  Memory.read_writeBytes_outside _ _ _ _ (by simp [pixelBytes]; omega)

/-- Writing a pixel leaves every other pixel alone. -/
theorem Memory.readPixel_writePixel_other (m : Memory) {i j : Nat} (p : Pixel) (h : j ≠ i) :
    (m.writePixel i p).readPixel j = m.readPixel j := by
  simp only [Memory.readPixel]
  rw [Memory.readBytes_congr fun x h1 h2 => Memory.read_writePixel_outside m i x p (by omega)]

theorem Memory.read_ofBytesFrom (bs : List Byte) (a x : Nat) :
    (Memory.ofBytesFrom a bs).read x = if a ≤ x then bs[x - a]? else none := by
  induction bs generalizing a with
  | nil => simp [Memory.ofBytesFrom]
  | cons b bs ih =>
    simp only [Memory.ofBytesFrom, Memory.read, ih]
    by_cases hx : a = x
    · subst hx; simp
    · by_cases h : a + 1 ≤ x
      · have h3 : x - a = (x - (a + 1)) + 1 := by omega
        simp [hx, h, show a ≤ x by omega, h3]
      · simp [hx, h, show ¬ a ≤ x by omega]

/-- A buffer the host fills holds its bytes in order from offset 0. -/
theorem Memory.read_ofBytes (bs : List Byte) (x : Nat) : (Memory.ofBytes bs).read x = bs[x]? := by
  simp [Memory.ofBytes, Memory.read_ofBytesFrom]

theorem pixelBytes_length (p : Pixel) : (pixelBytes p).length = 4 := rfl

theorem flatMap_pixelBytes_length (ps : List Pixel) : (ps.flatMap pixelBytes).length = 4 * ps.length := by
  induction ps with
  | nil => rfl
  | cons p ps ih => simp [List.flatMap_cons, pixelBytes_length, ih]; omega

theorem flatMap_pixelBytes_get (ps : List Pixel) (i k : Nat) (p : Pixel) (hp : ps[i]? = some p)
    (hk : k < 4) : (ps.flatMap pixelBytes)[4 * i + k]? = (pixelBytes p)[k]? := by
  induction ps generalizing i with
  | nil => simp at hp
  | cons q ps ih =>
    rw [List.flatMap_cons]
    cases i with
    | zero =>
      simp at hp; subst hp
      rw [List.getElem?_append_left (by simp [pixelBytes_length]; omega)]; simp
    | succ i =>
      simp at hp
      rw [List.getElem?_append_right (by simp [pixelBytes_length]; omega), ← ih i hp]
      congr 1; simp [pixelBytes_length]; omega

/-- A pixel buffer the host fills holds its pixels in order. -/
theorem Memory.readPixel_ofPixels (ps : List Pixel) (i : Nat) (p : Pixel) (hp : ps[i]? = some p) :
    (Memory.ofPixels ps).readPixel i = some p := by
  have h : (Memory.ofPixels ps).readBytes (4 * i) (pixelBytes p).length = some (pixelBytes p) :=
    Memory.readBytes_eq_some _ _ _ fun k hk => by
      rw [Memory.ofPixels, Memory.read_ofBytes]
      exact flatMap_pixelBytes_get ps i k p hp (by simpa [pixelBytes_length] using hk)
  rw [pixelBytes_length] at h
  simp [Memory.readPixel, h, pixelBytes, pixelOfBytes]

/-- Canonical buffers that read the same are the same data. -/
theorem Memory.eq_of_read_eq {m m' : Memory} (h : m.wf = true) (h' : m'.wf = true)
    (hr : ∀ a, m.read a = m'.read a) : m = m' := by
  have below : ∀ (m : Memory) (l a : Nat), Memory.wfAbove (some l) m = true → a ≤ l → m.read a = none := by
    intro m
    induction m with
    | nil => intros; rfl
    | cons c m ih =>
      intro l a hm ha
      simp only [Memory.wfAbove, Bool.and_eq_true, decide_eq_true_eq] at hm
      simp only [Memory.read, if_neg (show c.1 ≠ a by omega)]
      exact ih c.1 a hm.2 (by omega)
  have main : ∀ (m m' : Memory) (lo : Option Nat), Memory.wfAbove lo m = true →
      Memory.wfAbove lo m' = true → (∀ a, m.read a = m'.read a) → m = m' := by
    intro m
    induction m with
    | nil =>
      intro m' lo _ _ hr
      cases m' with
      | nil => rfl
      | cons c m' => exact absurd (hr c.1) (by simp [Memory.read])
    | cons c m ih =>
      intro m' lo hm hm' hr
      cases m' with
      | nil => exact absurd (hr c.1) (by simp [Memory.read])
      | cons d m' =>
        have hm1 : Memory.wfAbove (some c.1) m = true := by cases lo <;> simp_all [Memory.wfAbove]
        have hm2 : Memory.wfAbove (some d.1) m' = true := by cases lo <;> simp_all [Memory.wfAbove]
        have hcd : c.1 = d.1 := by
          rcases Nat.lt_trichotomy c.1 d.1 with h | h | h
          · have := hr c.1
            rw [Memory.read, if_pos rfl, Memory.read, if_neg (by omega), below m' d.1 c.1 hm2 (by omega)] at this
            exact absurd this (by simp)
          · exact h
          · have := hr d.1
            rw [Memory.read, if_neg (by omega), below m c.1 d.1 hm1 (by omega), Memory.read, if_pos rfl] at this
            exact absurd this (by simp)
        have hv : c.2 = d.2 := by
          have := hr c.1
          simpa [Memory.read, hcd] using this
        have hc : c = d := Prod.ext hcd hv
        subst hc
        rw [ih m' (some c.1) hm1 hm2]
        intro a
        by_cases ha : a = c.1
        · subst ha; rw [below m c.1 c.1 hm1 (by omega), below m' c.1 c.1 hm2 (by omega)]
        · have := hr a
          simpa [Memory.read, Ne.symm ha] using this
  exact main m m' none h h' hr

end Sys2Proof.Machine
end

