-- ==== Sys2Proof/Laws/State.lean ====
section
/-! SUPPORT. For each named update of the state, what every field holds after it: one lemma a field,
so that no later proof unfolds a record update. -/

namespace Sys2Proof.Machine

/-! ### `State.produce` -/

@[simp] theorem State.produce_cfg (p : Pixel) (s : State) : (s.produce p).cfg = s.cfg := rfl
@[simp] theorem State.produce_prev (p : Pixel) (s : State) : (s.produce p).prev = s.prev := rfl
@[simp] theorem State.produce_cache (p : Pixel) (s : State) : (s.produce p).cache = s.cache := rfl
@[simp] theorem State.produce_runCount (p : Pixel) (s : State) : (s.produce p).runCount = s.runCount := rfl
@[simp] theorem State.produce_width (p : Pixel) (s : State) : (s.produce p).width = s.width := rfl
@[simp] theorem State.produce_height (p : Pixel) (s : State) : (s.produce p).height = s.height := rfl
@[simp] theorem State.produce_channels (p : Pixel) (s : State) : (s.produce p).channels = s.channels := rfl
@[simp] theorem State.produce_colorSpace (p : Pixel) (s : State) : (s.produce p).colorSpace = s.colorSpace := rfl
@[simp] theorem State.produce_pxi (p : Pixel) (s : State) : (s.produce p).pxi = s.pxi := rfl
@[simp] theorem State.produce_optr (p : Pixel) (s : State) : (s.produce p).optr = s.optr := rfl
@[simp] theorem State.produce_iptr (p : Pixel) (s : State) : (s.produce p).iptr = s.iptr := rfl
@[simp] theorem State.produce_pxo (p : Pixel) (s : State) : (s.produce p).pxo = s.pxo + 1 := rfl
@[simp] theorem State.produce_mode (p : Pixel) (s : State) : (s.produce p).mode = s.mode := rfl
@[simp] theorem State.produce_status (p : Pixel) (s : State) : (s.produce p).status = s.status := rfl
@[simp] theorem State.produce_fclass (p : Pixel) (s : State) : (s.produce p).fclass = s.fclass := rfl
@[simp] theorem State.produce_fcause (p : Pixel) (s : State) : (s.produce p).fcause = s.fcause := rfl
@[simp] theorem State.produce_phase (p : Pixel) (s : State) : (s.produce p).phase = s.phase := rfl
@[simp] theorem State.produce_inMem (p : Pixel) (s : State) : (s.produce p).inMem = s.inMem := rfl
@[simp] theorem State.produce_inLen (p : Pixel) (s : State) : (s.produce p).inLen = s.inLen := rfl
@[simp] theorem State.produce_outMem (p : Pixel) (s : State) : (s.produce p).outMem = s.outMem := rfl
@[simp] theorem State.produce_pixMem (p : Pixel) (s : State) : (s.produce p).pixMem = s.pixMem.writePixel s.pxo p := rfl
@[simp] theorem State.produce_pixLen (p : Pixel) (s : State) : (s.produce p).pixLen = s.pxo + 1 := rfl
@[simp] theorem State.produce_hostq (p : Pixel) (s : State) : (s.produce p).hostq = s.hostq := rfl
@[simp] theorem State.produce_draws (p : Pixel) (s : State) : (s.produce p).draws = s.draws := rfl

/-! ### `State.emit` -/

@[simp] theorem State.emit_cfg (bs : List Byte) (s : State) : (s.emit bs).cfg = s.cfg := rfl
@[simp] theorem State.emit_prev (bs : List Byte) (s : State) : (s.emit bs).prev = s.prev := rfl
@[simp] theorem State.emit_cache (bs : List Byte) (s : State) : (s.emit bs).cache = s.cache := rfl
@[simp] theorem State.emit_runCount (bs : List Byte) (s : State) : (s.emit bs).runCount = s.runCount := rfl
@[simp] theorem State.emit_width (bs : List Byte) (s : State) : (s.emit bs).width = s.width := rfl
@[simp] theorem State.emit_height (bs : List Byte) (s : State) : (s.emit bs).height = s.height := rfl
@[simp] theorem State.emit_channels (bs : List Byte) (s : State) : (s.emit bs).channels = s.channels := rfl
@[simp] theorem State.emit_colorSpace (bs : List Byte) (s : State) : (s.emit bs).colorSpace = s.colorSpace := rfl
@[simp] theorem State.emit_pxi (bs : List Byte) (s : State) : (s.emit bs).pxi = s.pxi := rfl
@[simp] theorem State.emit_optr (bs : List Byte) (s : State) : (s.emit bs).optr = s.optr + bs.length := rfl
@[simp] theorem State.emit_iptr (bs : List Byte) (s : State) : (s.emit bs).iptr = s.iptr := rfl
@[simp] theorem State.emit_pxo (bs : List Byte) (s : State) : (s.emit bs).pxo = s.pxo := rfl
@[simp] theorem State.emit_mode (bs : List Byte) (s : State) : (s.emit bs).mode = s.mode := rfl
@[simp] theorem State.emit_status (bs : List Byte) (s : State) : (s.emit bs).status = s.status := rfl
@[simp] theorem State.emit_fclass (bs : List Byte) (s : State) : (s.emit bs).fclass = s.fclass := rfl
@[simp] theorem State.emit_fcause (bs : List Byte) (s : State) : (s.emit bs).fcause = s.fcause := rfl
@[simp] theorem State.emit_phase (bs : List Byte) (s : State) : (s.emit bs).phase = s.phase := rfl
@[simp] theorem State.emit_inMem (bs : List Byte) (s : State) : (s.emit bs).inMem = s.inMem := rfl
@[simp] theorem State.emit_inLen (bs : List Byte) (s : State) : (s.emit bs).inLen = s.inLen := rfl
@[simp] theorem State.emit_outMem (bs : List Byte) (s : State) : (s.emit bs).outMem = s.outMem.writeBytes s.optr bs := rfl
@[simp] theorem State.emit_pixMem (bs : List Byte) (s : State) : (s.emit bs).pixMem = s.pixMem := rfl
@[simp] theorem State.emit_pixLen (bs : List Byte) (s : State) : (s.emit bs).pixLen = s.pixLen := rfl
@[simp] theorem State.emit_hostq (bs : List Byte) (s : State) : (s.emit bs).hostq = s.hostq := rfl
@[simp] theorem State.emit_draws (bs : List Byte) (s : State) : (s.emit bs).draws = s.draws := rfl

/-! ### `State.advance` -/

@[simp] theorem State.advance_cfg (n : Nat) (s : State) : (s.advance n).cfg = s.cfg := rfl
@[simp] theorem State.advance_prev (n : Nat) (s : State) : (s.advance n).prev = s.prev := rfl
@[simp] theorem State.advance_cache (n : Nat) (s : State) : (s.advance n).cache = s.cache := rfl
@[simp] theorem State.advance_runCount (n : Nat) (s : State) : (s.advance n).runCount = s.runCount := rfl
@[simp] theorem State.advance_width (n : Nat) (s : State) : (s.advance n).width = s.width := rfl
@[simp] theorem State.advance_height (n : Nat) (s : State) : (s.advance n).height = s.height := rfl
@[simp] theorem State.advance_channels (n : Nat) (s : State) : (s.advance n).channels = s.channels := rfl
@[simp] theorem State.advance_colorSpace (n : Nat) (s : State) : (s.advance n).colorSpace = s.colorSpace := rfl
@[simp] theorem State.advance_pxi (n : Nat) (s : State) : (s.advance n).pxi = s.pxi := rfl
@[simp] theorem State.advance_optr (n : Nat) (s : State) : (s.advance n).optr = s.optr := rfl
@[simp] theorem State.advance_iptr (n : Nat) (s : State) : (s.advance n).iptr = s.iptr + n := rfl
@[simp] theorem State.advance_pxo (n : Nat) (s : State) : (s.advance n).pxo = s.pxo := rfl
@[simp] theorem State.advance_mode (n : Nat) (s : State) : (s.advance n).mode = s.mode := rfl
@[simp] theorem State.advance_status (n : Nat) (s : State) : (s.advance n).status = s.status := rfl
@[simp] theorem State.advance_fclass (n : Nat) (s : State) : (s.advance n).fclass = s.fclass := rfl
@[simp] theorem State.advance_fcause (n : Nat) (s : State) : (s.advance n).fcause = s.fcause := rfl
@[simp] theorem State.advance_phase (n : Nat) (s : State) : (s.advance n).phase = s.phase := rfl
@[simp] theorem State.advance_inMem (n : Nat) (s : State) : (s.advance n).inMem = s.inMem := rfl
@[simp] theorem State.advance_inLen (n : Nat) (s : State) : (s.advance n).inLen = s.inLen := rfl
@[simp] theorem State.advance_outMem (n : Nat) (s : State) : (s.advance n).outMem = s.outMem := rfl
@[simp] theorem State.advance_pixMem (n : Nat) (s : State) : (s.advance n).pixMem = s.pixMem := rfl
@[simp] theorem State.advance_pixLen (n : Nat) (s : State) : (s.advance n).pixLen = s.pixLen := rfl
@[simp] theorem State.advance_hostq (n : Nat) (s : State) : (s.advance n).hostq = s.hostq := rfl
@[simp] theorem State.advance_draws (n : Nat) (s : State) : (s.advance n).draws = s.draws := rfl

/-! ### `State.postUpdate` -/

@[simp] theorem State.postUpdate_cfg (p : Pixel) (s : State) : (s.postUpdate p).cfg = s.cfg := rfl
@[simp] theorem State.postUpdate_prev (p : Pixel) (s : State) : (s.postUpdate p).prev = p := rfl
@[simp] theorem State.postUpdate_cache (p : Pixel) (s : State) : (s.postUpdate p).cache = cacheStore s.cache p := rfl
@[simp] theorem State.postUpdate_runCount (p : Pixel) (s : State) : (s.postUpdate p).runCount = s.runCount := rfl
@[simp] theorem State.postUpdate_width (p : Pixel) (s : State) : (s.postUpdate p).width = s.width := rfl
@[simp] theorem State.postUpdate_height (p : Pixel) (s : State) : (s.postUpdate p).height = s.height := rfl
@[simp] theorem State.postUpdate_channels (p : Pixel) (s : State) : (s.postUpdate p).channels = s.channels := rfl
@[simp] theorem State.postUpdate_colorSpace (p : Pixel) (s : State) : (s.postUpdate p).colorSpace = s.colorSpace := rfl
@[simp] theorem State.postUpdate_pxi (p : Pixel) (s : State) : (s.postUpdate p).pxi = s.pxi := rfl
@[simp] theorem State.postUpdate_optr (p : Pixel) (s : State) : (s.postUpdate p).optr = s.optr := rfl
@[simp] theorem State.postUpdate_iptr (p : Pixel) (s : State) : (s.postUpdate p).iptr = s.iptr := rfl
@[simp] theorem State.postUpdate_pxo (p : Pixel) (s : State) : (s.postUpdate p).pxo = s.pxo := rfl
@[simp] theorem State.postUpdate_mode (p : Pixel) (s : State) : (s.postUpdate p).mode = s.mode := rfl
@[simp] theorem State.postUpdate_status (p : Pixel) (s : State) : (s.postUpdate p).status = s.status := rfl
@[simp] theorem State.postUpdate_fclass (p : Pixel) (s : State) : (s.postUpdate p).fclass = s.fclass := rfl
@[simp] theorem State.postUpdate_fcause (p : Pixel) (s : State) : (s.postUpdate p).fcause = s.fcause := rfl
@[simp] theorem State.postUpdate_phase (p : Pixel) (s : State) : (s.postUpdate p).phase = s.phase := rfl
@[simp] theorem State.postUpdate_inMem (p : Pixel) (s : State) : (s.postUpdate p).inMem = s.inMem := rfl
@[simp] theorem State.postUpdate_inLen (p : Pixel) (s : State) : (s.postUpdate p).inLen = s.inLen := rfl
@[simp] theorem State.postUpdate_outMem (p : Pixel) (s : State) : (s.postUpdate p).outMem = s.outMem := rfl
@[simp] theorem State.postUpdate_pixMem (p : Pixel) (s : State) : (s.postUpdate p).pixMem = s.pixMem := rfl
@[simp] theorem State.postUpdate_pixLen (p : Pixel) (s : State) : (s.postUpdate p).pixLen = s.pixLen := rfl
@[simp] theorem State.postUpdate_hostq (p : Pixel) (s : State) : (s.postUpdate p).hostq = s.hostq := rfl
@[simp] theorem State.postUpdate_draws (p : Pixel) (s : State) : (s.postUpdate p).draws = s.draws := rfl

/-! ### `State.setHeader` -/

@[simp] theorem State.setHeader_cfg (h : Header) (s : State) : (s.setHeader h).cfg = s.cfg := rfl
@[simp] theorem State.setHeader_prev (h : Header) (s : State) : (s.setHeader h).prev = s.prev := rfl
@[simp] theorem State.setHeader_cache (h : Header) (s : State) : (s.setHeader h).cache = s.cache := rfl
@[simp] theorem State.setHeader_runCount (h : Header) (s : State) : (s.setHeader h).runCount = s.runCount := rfl
@[simp] theorem State.setHeader_width (h : Header) (s : State) : (s.setHeader h).width = h.width := rfl
@[simp] theorem State.setHeader_height (h : Header) (s : State) : (s.setHeader h).height = h.height := rfl
@[simp] theorem State.setHeader_channels (h : Header) (s : State) : (s.setHeader h).channels = h.channels := rfl
@[simp] theorem State.setHeader_colorSpace (h : Header) (s : State) : (s.setHeader h).colorSpace = h.colorSpace := rfl
@[simp] theorem State.setHeader_pxi (h : Header) (s : State) : (s.setHeader h).pxi = s.pxi := rfl
@[simp] theorem State.setHeader_optr (h : Header) (s : State) : (s.setHeader h).optr = s.optr := rfl
@[simp] theorem State.setHeader_iptr (h : Header) (s : State) : (s.setHeader h).iptr = s.iptr := rfl
@[simp] theorem State.setHeader_pxo (h : Header) (s : State) : (s.setHeader h).pxo = s.pxo := rfl
@[simp] theorem State.setHeader_mode (h : Header) (s : State) : (s.setHeader h).mode = s.mode := rfl
@[simp] theorem State.setHeader_status (h : Header) (s : State) : (s.setHeader h).status = s.status := rfl
@[simp] theorem State.setHeader_fclass (h : Header) (s : State) : (s.setHeader h).fclass = s.fclass := rfl
@[simp] theorem State.setHeader_fcause (h : Header) (s : State) : (s.setHeader h).fcause = s.fcause := rfl
@[simp] theorem State.setHeader_phase (h : Header) (s : State) : (s.setHeader h).phase = s.phase := rfl
@[simp] theorem State.setHeader_inMem (h : Header) (s : State) : (s.setHeader h).inMem = s.inMem := rfl
@[simp] theorem State.setHeader_inLen (h : Header) (s : State) : (s.setHeader h).inLen = s.inLen := rfl
@[simp] theorem State.setHeader_outMem (h : Header) (s : State) : (s.setHeader h).outMem = s.outMem := rfl
@[simp] theorem State.setHeader_pixMem (h : Header) (s : State) : (s.setHeader h).pixMem = s.pixMem := rfl
@[simp] theorem State.setHeader_pixLen (h : Header) (s : State) : (s.setHeader h).pixLen = s.pixLen := rfl
@[simp] theorem State.setHeader_hostq (h : Header) (s : State) : (s.setHeader h).hostq = s.hostq := rfl
@[simp] theorem State.setHeader_draws (h : Header) (s : State) : (s.setHeader h).draws = s.draws := rfl

/-! ### `State.setEncRegs` -/

@[simp] theorem State.setEncRegs_cfg (e : EncRegs) (s : State) : (s.setEncRegs e).cfg = s.cfg := rfl
@[simp] theorem State.setEncRegs_prev (e : EncRegs) (s : State) : (s.setEncRegs e).prev = e.prev := rfl
@[simp] theorem State.setEncRegs_cache (e : EncRegs) (s : State) : (s.setEncRegs e).cache = e.cache := rfl
@[simp] theorem State.setEncRegs_runCount (e : EncRegs) (s : State) : (s.setEncRegs e).runCount = e.run := rfl
@[simp] theorem State.setEncRegs_width (e : EncRegs) (s : State) : (s.setEncRegs e).width = s.width := rfl
@[simp] theorem State.setEncRegs_height (e : EncRegs) (s : State) : (s.setEncRegs e).height = s.height := rfl
@[simp] theorem State.setEncRegs_channels (e : EncRegs) (s : State) : (s.setEncRegs e).channels = s.channels := rfl
@[simp] theorem State.setEncRegs_colorSpace (e : EncRegs) (s : State) : (s.setEncRegs e).colorSpace = s.colorSpace := rfl
@[simp] theorem State.setEncRegs_pxi (e : EncRegs) (s : State) : (s.setEncRegs e).pxi = s.pxi := rfl
@[simp] theorem State.setEncRegs_optr (e : EncRegs) (s : State) : (s.setEncRegs e).optr = s.optr := rfl
@[simp] theorem State.setEncRegs_iptr (e : EncRegs) (s : State) : (s.setEncRegs e).iptr = s.iptr := rfl
@[simp] theorem State.setEncRegs_pxo (e : EncRegs) (s : State) : (s.setEncRegs e).pxo = s.pxo := rfl
@[simp] theorem State.setEncRegs_mode (e : EncRegs) (s : State) : (s.setEncRegs e).mode = s.mode := rfl
@[simp] theorem State.setEncRegs_status (e : EncRegs) (s : State) : (s.setEncRegs e).status = s.status := rfl
@[simp] theorem State.setEncRegs_fclass (e : EncRegs) (s : State) : (s.setEncRegs e).fclass = s.fclass := rfl
@[simp] theorem State.setEncRegs_fcause (e : EncRegs) (s : State) : (s.setEncRegs e).fcause = s.fcause := rfl
@[simp] theorem State.setEncRegs_phase (e : EncRegs) (s : State) : (s.setEncRegs e).phase = s.phase := rfl
@[simp] theorem State.setEncRegs_inMem (e : EncRegs) (s : State) : (s.setEncRegs e).inMem = s.inMem := rfl
@[simp] theorem State.setEncRegs_inLen (e : EncRegs) (s : State) : (s.setEncRegs e).inLen = s.inLen := rfl
@[simp] theorem State.setEncRegs_outMem (e : EncRegs) (s : State) : (s.setEncRegs e).outMem = s.outMem := rfl
@[simp] theorem State.setEncRegs_pixMem (e : EncRegs) (s : State) : (s.setEncRegs e).pixMem = s.pixMem := rfl
@[simp] theorem State.setEncRegs_pixLen (e : EncRegs) (s : State) : (s.setEncRegs e).pixLen = s.pixLen := rfl
@[simp] theorem State.setEncRegs_hostq (e : EncRegs) (s : State) : (s.setEncRegs e).hostq = s.hostq := rfl
@[simp] theorem State.setEncRegs_draws (e : EncRegs) (s : State) : (s.setEncRegs e).draws = s.draws := rfl

/-! ### `State.nextPixel` -/

@[simp] theorem State.nextPixel_cfg (s : State) : s.nextPixel.cfg = s.cfg := rfl
@[simp] theorem State.nextPixel_prev (s : State) : s.nextPixel.prev = s.prev := rfl
@[simp] theorem State.nextPixel_cache (s : State) : s.nextPixel.cache = s.cache := rfl
@[simp] theorem State.nextPixel_runCount (s : State) : s.nextPixel.runCount = s.runCount := rfl
@[simp] theorem State.nextPixel_width (s : State) : s.nextPixel.width = s.width := rfl
@[simp] theorem State.nextPixel_height (s : State) : s.nextPixel.height = s.height := rfl
@[simp] theorem State.nextPixel_channels (s : State) : s.nextPixel.channels = s.channels := rfl
@[simp] theorem State.nextPixel_colorSpace (s : State) : s.nextPixel.colorSpace = s.colorSpace := rfl
@[simp] theorem State.nextPixel_pxi (s : State) : s.nextPixel.pxi = s.pxi + 1 := rfl
@[simp] theorem State.nextPixel_optr (s : State) : s.nextPixel.optr = s.optr := rfl
@[simp] theorem State.nextPixel_iptr (s : State) : s.nextPixel.iptr = s.iptr := rfl
@[simp] theorem State.nextPixel_pxo (s : State) : s.nextPixel.pxo = s.pxo := rfl
@[simp] theorem State.nextPixel_mode (s : State) : s.nextPixel.mode = s.mode := rfl
@[simp] theorem State.nextPixel_status (s : State) : s.nextPixel.status = s.status := rfl
@[simp] theorem State.nextPixel_fclass (s : State) : s.nextPixel.fclass = s.fclass := rfl
@[simp] theorem State.nextPixel_fcause (s : State) : s.nextPixel.fcause = s.fcause := rfl
@[simp] theorem State.nextPixel_phase (s : State) : s.nextPixel.phase = s.phase := rfl
@[simp] theorem State.nextPixel_inMem (s : State) : s.nextPixel.inMem = s.inMem := rfl
@[simp] theorem State.nextPixel_inLen (s : State) : s.nextPixel.inLen = s.inLen := rfl
@[simp] theorem State.nextPixel_outMem (s : State) : s.nextPixel.outMem = s.outMem := rfl
@[simp] theorem State.nextPixel_pixMem (s : State) : s.nextPixel.pixMem = s.pixMem := rfl
@[simp] theorem State.nextPixel_pixLen (s : State) : s.nextPixel.pixLen = s.pixLen := rfl
@[simp] theorem State.nextPixel_hostq (s : State) : s.nextPixel.hostq = s.hostq := rfl
@[simp] theorem State.nextPixel_draws (s : State) : s.nextPixel.draws = s.draws := rfl

/-! ### `State.loseHeader`: which fields it leaves alone, and what the others hold -/

@[simp] theorem State.loseHeader_cfg (s : State) : s.loseHeader.cfg = s.cfg := rfl
@[simp] theorem State.loseHeader_prev (s : State) : s.loseHeader.prev = s.prev := rfl
@[simp] theorem State.loseHeader_cache (s : State) : s.loseHeader.cache = s.cache := rfl
@[simp] theorem State.loseHeader_runCount (s : State) : s.loseHeader.runCount = s.runCount := rfl
@[simp] theorem State.loseHeader_width (s : State) : s.loseHeader.width = BitVec.ofNat 32 (Config.freeValue s.draws 265) := rfl
@[simp] theorem State.loseHeader_height (s : State) : s.loseHeader.height = BitVec.ofNat 32 (Config.freeValue s.draws 266) := rfl
@[simp] theorem State.loseHeader_channels (s : State) : s.loseHeader.channels = BitVec.ofNat 8 (Config.freeValue s.draws 267) := rfl
@[simp] theorem State.loseHeader_colorSpace (s : State) : s.loseHeader.colorSpace = BitVec.ofNat 8 (Config.freeValue s.draws 268) := rfl
@[simp] theorem State.loseHeader_pxi (s : State) : s.loseHeader.pxi = s.pxi := rfl
@[simp] theorem State.loseHeader_optr (s : State) : s.loseHeader.optr = s.optr := rfl
@[simp] theorem State.loseHeader_iptr (s : State) : s.loseHeader.iptr = s.iptr := rfl
@[simp] theorem State.loseHeader_pxo (s : State) : s.loseHeader.pxo = s.pxo := rfl
@[simp] theorem State.loseHeader_mode (s : State) : s.loseHeader.mode = s.mode := rfl
@[simp] theorem State.loseHeader_status (s : State) : s.loseHeader.status = s.status := rfl
@[simp] theorem State.loseHeader_fclass (s : State) : s.loseHeader.fclass = s.fclass := rfl
@[simp] theorem State.loseHeader_fcause (s : State) : s.loseHeader.fcause = s.fcause := rfl
@[simp] theorem State.loseHeader_phase (s : State) : s.loseHeader.phase = s.phase := rfl
@[simp] theorem State.loseHeader_inMem (s : State) : s.loseHeader.inMem = s.inMem := rfl
@[simp] theorem State.loseHeader_inLen (s : State) : s.loseHeader.inLen = s.inLen := rfl
@[simp] theorem State.loseHeader_outMem (s : State) : s.loseHeader.outMem = s.outMem := rfl
@[simp] theorem State.loseHeader_pixMem (s : State) : s.loseHeader.pixMem = s.pixMem := rfl
@[simp] theorem State.loseHeader_pixLen (s : State) : s.loseHeader.pixLen = s.pixLen := rfl
@[simp] theorem State.loseHeader_hostq (s : State) : s.loseHeader.hostq = s.hostq := rfl
@[simp] theorem State.loseHeader_draws (s : State) : s.loseHeader.draws = s.draws + 1 := rfl

/-! ### `State.loseRegisters` -/

@[simp] theorem State.loseRegisters_cfg (s : State) : s.loseRegisters.cfg = s.cfg := rfl
@[simp] theorem State.loseRegisters_prev (s : State) : s.loseRegisters.prev = freePixel s.draws 0 := rfl
@[simp] theorem State.loseRegisters_cache (s : State) : s.loseRegisters.cache = Vector.ofFn fun k : Fin 64 => freePixel s.draws (k.val + 1) := rfl
@[simp] theorem State.loseRegisters_runCount (s : State) : s.loseRegisters.runCount = BitVec.ofNat 6 (Config.freeValue s.draws 260) := rfl
@[simp] theorem State.loseRegisters_width (s : State) : s.loseRegisters.width = s.width := rfl
@[simp] theorem State.loseRegisters_height (s : State) : s.loseRegisters.height = s.height := rfl
@[simp] theorem State.loseRegisters_channels (s : State) : s.loseRegisters.channels = s.channels := rfl
@[simp] theorem State.loseRegisters_colorSpace (s : State) : s.loseRegisters.colorSpace = s.colorSpace := rfl
@[simp] theorem State.loseRegisters_pxi (s : State) : s.loseRegisters.pxi = Config.freeValue s.draws 261 := rfl
@[simp] theorem State.loseRegisters_optr (s : State) : s.loseRegisters.optr = Config.freeValue s.draws 264 := rfl
@[simp] theorem State.loseRegisters_iptr (s : State) : s.loseRegisters.iptr = Config.freeValue s.draws 262 := rfl
@[simp] theorem State.loseRegisters_pxo (s : State) : s.loseRegisters.pxo = Config.freeValue s.draws 263 := rfl
@[simp] theorem State.loseRegisters_mode (s : State) : s.loseRegisters.mode = s.mode := rfl
@[simp] theorem State.loseRegisters_status (s : State) : s.loseRegisters.status = s.status := rfl
@[simp] theorem State.loseRegisters_fclass (s : State) : s.loseRegisters.fclass = s.fclass := rfl
@[simp] theorem State.loseRegisters_fcause (s : State) : s.loseRegisters.fcause = s.fcause := rfl
@[simp] theorem State.loseRegisters_phase (s : State) : s.loseRegisters.phase = .framing := rfl
@[simp] theorem State.loseRegisters_inMem (s : State) : s.loseRegisters.inMem = s.inMem := rfl
@[simp] theorem State.loseRegisters_inLen (s : State) : s.loseRegisters.inLen = s.inLen := rfl
@[simp] theorem State.loseRegisters_outMem (s : State) : s.loseRegisters.outMem = s.outMem := rfl
@[simp] theorem State.loseRegisters_pixMem (s : State) : s.loseRegisters.pixMem = s.pixMem := rfl
@[simp] theorem State.loseRegisters_pixLen (s : State) : s.loseRegisters.pixLen = s.pixLen := rfl
@[simp] theorem State.loseRegisters_hostq (s : State) : s.loseRegisters.hostq = s.hostq := rfl
@[simp] theorem State.loseRegisters_draws (s : State) : s.loseRegisters.draws = s.draws + 1 := rfl

/-! ### `State.finish` -/

@[simp] theorem State.finish_cfg (s : State) : s.finish.cfg = s.cfg := rfl
@[simp] theorem State.finish_prev (s : State) : s.finish.prev = freePixel s.draws 0 := rfl
@[simp] theorem State.finish_cache (s : State) : s.finish.cache = Vector.ofFn fun k : Fin 64 => freePixel s.draws (k.val + 1) := rfl
@[simp] theorem State.finish_runCount (s : State) : s.finish.runCount = BitVec.ofNat 6 (Config.freeValue s.draws 260) := rfl
@[simp] theorem State.finish_width (s : State) : s.finish.width = s.width := rfl
@[simp] theorem State.finish_height (s : State) : s.finish.height = s.height := rfl
@[simp] theorem State.finish_channels (s : State) : s.finish.channels = s.channels := rfl
@[simp] theorem State.finish_colorSpace (s : State) : s.finish.colorSpace = s.colorSpace := rfl
@[simp] theorem State.finish_pxi (s : State) : s.finish.pxi = Config.freeValue s.draws 261 := rfl
@[simp] theorem State.finish_optr (s : State) : s.finish.optr = Config.freeValue s.draws 264 := rfl
@[simp] theorem State.finish_iptr (s : State) : s.finish.iptr = Config.freeValue s.draws 262 := rfl
@[simp] theorem State.finish_pxo (s : State) : s.finish.pxo = Config.freeValue s.draws 263 := rfl
@[simp] theorem State.finish_mode (s : State) : s.finish.mode = s.mode := rfl
@[simp] theorem State.finish_status (s : State) : s.finish.status = .done := rfl
@[simp] theorem State.finish_fclass (s : State) : s.finish.fclass = s.fclass := rfl
@[simp] theorem State.finish_fcause (s : State) : s.finish.fcause = s.fcause := rfl
@[simp] theorem State.finish_phase (s : State) : s.finish.phase = .framing := rfl
@[simp] theorem State.finish_inMem (s : State) : s.finish.inMem = s.inMem := rfl
@[simp] theorem State.finish_inLen (s : State) : s.finish.inLen = s.inLen := rfl
@[simp] theorem State.finish_outMem (s : State) : s.finish.outMem = s.outMem := rfl
@[simp] theorem State.finish_pixMem (s : State) : s.finish.pixMem = s.pixMem := rfl
@[simp] theorem State.finish_pixLen (s : State) : s.finish.pixLen = s.pixLen := rfl
@[simp] theorem State.finish_hostq (s : State) : s.finish.hostq = s.hostq := rfl
@[simp] theorem State.finish_draws (s : State) : s.finish.draws = s.draws + 1 := rfl

/-! ### `State.produceN`: everything but PXO, PIX and len(PIX) stays -/

@[simp] theorem State.produceN_cfg (p : Pixel) (n : Nat) (s : State) : (s.produceN p n).cfg = s.cfg := by
  induction n generalizing s with
  | zero => rfl
  | succ n ih => simp [State.produceN, ih]
@[simp] theorem State.produceN_prev (p : Pixel) (n : Nat) (s : State) : (s.produceN p n).prev = s.prev := by
  induction n generalizing s with
  | zero => rfl
  | succ n ih => simp [State.produceN, ih]
@[simp] theorem State.produceN_cache (p : Pixel) (n : Nat) (s : State) : (s.produceN p n).cache = s.cache := by
  induction n generalizing s with
  | zero => rfl
  | succ n ih => simp [State.produceN, ih]
@[simp] theorem State.produceN_runCount (p : Pixel) (n : Nat) (s : State) : (s.produceN p n).runCount = s.runCount := by
  induction n generalizing s with
  | zero => rfl
  | succ n ih => simp [State.produceN, ih]
@[simp] theorem State.produceN_width (p : Pixel) (n : Nat) (s : State) : (s.produceN p n).width = s.width := by
  induction n generalizing s with
  | zero => rfl
  | succ n ih => simp [State.produceN, ih]
@[simp] theorem State.produceN_height (p : Pixel) (n : Nat) (s : State) : (s.produceN p n).height = s.height := by
  induction n generalizing s with
  | zero => rfl
  | succ n ih => simp [State.produceN, ih]
@[simp] theorem State.produceN_channels (p : Pixel) (n : Nat) (s : State) : (s.produceN p n).channels = s.channels := by
  induction n generalizing s with
  | zero => rfl
  | succ n ih => simp [State.produceN, ih]
@[simp] theorem State.produceN_colorSpace (p : Pixel) (n : Nat) (s : State) : (s.produceN p n).colorSpace = s.colorSpace := by
  induction n generalizing s with
  | zero => rfl
  | succ n ih => simp [State.produceN, ih]
@[simp] theorem State.produceN_pxi (p : Pixel) (n : Nat) (s : State) : (s.produceN p n).pxi = s.pxi := by
  induction n generalizing s with
  | zero => rfl
  | succ n ih => simp [State.produceN, ih]
@[simp] theorem State.produceN_optr (p : Pixel) (n : Nat) (s : State) : (s.produceN p n).optr = s.optr := by
  induction n generalizing s with
  | zero => rfl
  | succ n ih => simp [State.produceN, ih]
@[simp] theorem State.produceN_iptr (p : Pixel) (n : Nat) (s : State) : (s.produceN p n).iptr = s.iptr := by
  induction n generalizing s with
  | zero => rfl
  | succ n ih => simp [State.produceN, ih]
@[simp] theorem State.produceN_pxo (p : Pixel) (n : Nat) (s : State) : (s.produceN p n).pxo = s.pxo + n := by
  induction n generalizing s with
  | zero => rfl
  | succ n ih => simp [State.produceN, ih]; omega
@[simp] theorem State.produceN_mode (p : Pixel) (n : Nat) (s : State) : (s.produceN p n).mode = s.mode := by
  induction n generalizing s with
  | zero => rfl
  | succ n ih => simp [State.produceN, ih]
@[simp] theorem State.produceN_status (p : Pixel) (n : Nat) (s : State) : (s.produceN p n).status = s.status := by
  induction n generalizing s with
  | zero => rfl
  | succ n ih => simp [State.produceN, ih]
@[simp] theorem State.produceN_fclass (p : Pixel) (n : Nat) (s : State) : (s.produceN p n).fclass = s.fclass := by
  induction n generalizing s with
  | zero => rfl
  | succ n ih => simp [State.produceN, ih]
@[simp] theorem State.produceN_fcause (p : Pixel) (n : Nat) (s : State) : (s.produceN p n).fcause = s.fcause := by
  induction n generalizing s with
  | zero => rfl
  | succ n ih => simp [State.produceN, ih]
@[simp] theorem State.produceN_phase (p : Pixel) (n : Nat) (s : State) : (s.produceN p n).phase = s.phase := by
  induction n generalizing s with
  | zero => rfl
  | succ n ih => simp [State.produceN, ih]
@[simp] theorem State.produceN_inMem (p : Pixel) (n : Nat) (s : State) : (s.produceN p n).inMem = s.inMem := by
  induction n generalizing s with
  | zero => rfl
  | succ n ih => simp [State.produceN, ih]
@[simp] theorem State.produceN_inLen (p : Pixel) (n : Nat) (s : State) : (s.produceN p n).inLen = s.inLen := by
  induction n generalizing s with
  | zero => rfl
  | succ n ih => simp [State.produceN, ih]
@[simp] theorem State.produceN_outMem (p : Pixel) (n : Nat) (s : State) : (s.produceN p n).outMem = s.outMem := by
  induction n generalizing s with
  | zero => rfl
  | succ n ih => simp [State.produceN, ih]
@[simp] theorem State.produceN_hostq (p : Pixel) (n : Nat) (s : State) : (s.produceN p n).hostq = s.hostq := by
  induction n generalizing s with
  | zero => rfl
  | succ n ih => simp [State.produceN, ih]
@[simp] theorem State.produceN_draws (p : Pixel) (n : Nat) (s : State) : (s.produceN p n).draws = s.draws := by
  induction n generalizing s with
  | zero => rfl
  | succ n ih => simp [State.produceN, ih]

/-! ### `State.completeOpcode` -/

@[simp] theorem State.completeOpcode_cfg (len : Nat) (p : Pixel) (n : Nat) (s : State) :
    (s.completeOpcode len p n).cfg = s.cfg := by simp [State.completeOpcode]
@[simp] theorem State.completeOpcode_prev (len : Nat) (p : Pixel) (n : Nat) (s : State) :
    (s.completeOpcode len p n).prev = p := by simp [State.completeOpcode]
@[simp] theorem State.completeOpcode_cache (len : Nat) (p : Pixel) (n : Nat) (s : State) :
    (s.completeOpcode len p n).cache = cacheStore s.cache p := by simp [State.completeOpcode]
@[simp] theorem State.completeOpcode_runCount (len : Nat) (p : Pixel) (n : Nat) (s : State) :
    (s.completeOpcode len p n).runCount = s.runCount := by simp [State.completeOpcode]
@[simp] theorem State.completeOpcode_width (len : Nat) (p : Pixel) (n : Nat) (s : State) :
    (s.completeOpcode len p n).width = s.width := by simp [State.completeOpcode]
@[simp] theorem State.completeOpcode_height (len : Nat) (p : Pixel) (n : Nat) (s : State) :
    (s.completeOpcode len p n).height = s.height := by simp [State.completeOpcode]
@[simp] theorem State.completeOpcode_channels (len : Nat) (p : Pixel) (n : Nat) (s : State) :
    (s.completeOpcode len p n).channels = s.channels := by simp [State.completeOpcode]
@[simp] theorem State.completeOpcode_colorSpace (len : Nat) (p : Pixel) (n : Nat) (s : State) :
    (s.completeOpcode len p n).colorSpace = s.colorSpace := by simp [State.completeOpcode]
@[simp] theorem State.completeOpcode_pxi (len : Nat) (p : Pixel) (n : Nat) (s : State) :
    (s.completeOpcode len p n).pxi = s.pxi := by simp [State.completeOpcode]
@[simp] theorem State.completeOpcode_optr (len : Nat) (p : Pixel) (n : Nat) (s : State) :
    (s.completeOpcode len p n).optr = s.optr := by simp [State.completeOpcode]
@[simp] theorem State.completeOpcode_iptr (len : Nat) (p : Pixel) (n : Nat) (s : State) :
    (s.completeOpcode len p n).iptr = s.iptr + len := by simp [State.completeOpcode]
@[simp] theorem State.completeOpcode_pxo (len : Nat) (p : Pixel) (n : Nat) (s : State) :
    (s.completeOpcode len p n).pxo = s.pxo + n := by simp [State.completeOpcode]
@[simp] theorem State.completeOpcode_mode (len : Nat) (p : Pixel) (n : Nat) (s : State) :
    (s.completeOpcode len p n).mode = s.mode := by simp [State.completeOpcode]
@[simp] theorem State.completeOpcode_status (len : Nat) (p : Pixel) (n : Nat) (s : State) :
    (s.completeOpcode len p n).status = s.status := by simp [State.completeOpcode]
@[simp] theorem State.completeOpcode_fclass (len : Nat) (p : Pixel) (n : Nat) (s : State) :
    (s.completeOpcode len p n).fclass = s.fclass := by simp [State.completeOpcode]
@[simp] theorem State.completeOpcode_fcause (len : Nat) (p : Pixel) (n : Nat) (s : State) :
    (s.completeOpcode len p n).fcause = s.fcause := by simp [State.completeOpcode]
@[simp] theorem State.completeOpcode_phase (len : Nat) (p : Pixel) (n : Nat) (s : State) :
    (s.completeOpcode len p n).phase = s.phase := by simp [State.completeOpcode]
@[simp] theorem State.completeOpcode_inMem (len : Nat) (p : Pixel) (n : Nat) (s : State) :
    (s.completeOpcode len p n).inMem = s.inMem := by simp [State.completeOpcode]
@[simp] theorem State.completeOpcode_inLen (len : Nat) (p : Pixel) (n : Nat) (s : State) :
    (s.completeOpcode len p n).inLen = s.inLen := by simp [State.completeOpcode]
@[simp] theorem State.completeOpcode_outMem (len : Nat) (p : Pixel) (n : Nat) (s : State) :
    (s.completeOpcode len p n).outMem = s.outMem := by simp [State.completeOpcode]
@[simp] theorem State.completeOpcode_pixMem (len : Nat) (p : Pixel) (n : Nat) (s : State) :
    (s.completeOpcode len p n).pixMem = (s.produceN p n).pixMem := by simp [State.completeOpcode]
@[simp] theorem State.completeOpcode_pixLen (len : Nat) (p : Pixel) (n : Nat) (s : State) :
    (s.completeOpcode len p n).pixLen = (s.produceN p n).pixLen := by simp [State.completeOpcode]
@[simp] theorem State.completeOpcode_hostq (len : Nat) (p : Pixel) (n : Nat) (s : State) :
    (s.completeOpcode len p n).hostq = s.hostq := by simp [State.completeOpcode]
@[simp] theorem State.completeOpcode_draws (len : Nat) (p : Pixel) (n : Nat) (s : State) :
    (s.completeOpcode len p n).draws = s.draws := by simp [State.completeOpcode]

/-! ### `State.raise` and `State.startPass`: the fields whose value is one for both modes -/

@[simp] theorem State.raise_cfg (c : FaultCause) (s : State) : (s.raise c).cfg = s.cfg := by
  cases h : s.mode <;> simp [State.raise, State.loseOutput, h]
@[simp] theorem State.raise_mode (c : FaultCause) (s : State) : (s.raise c).mode = s.mode := by
  cases h : s.mode <;> simp [State.raise, State.loseOutput, h]
@[simp] theorem State.raise_status (c : FaultCause) (s : State) : (s.raise c).status = .fault := by
  cases h : s.mode <;> simp [State.raise, State.loseOutput, h]
@[simp] theorem State.raise_fclass (c : FaultCause) (s : State) : (s.raise c).fclass = some c.faultClass := by
  cases h : s.mode <;> simp [State.raise, State.loseOutput, h]
@[simp] theorem State.raise_fcause (c : FaultCause) (s : State) : (s.raise c).fcause = some c := by
  cases h : s.mode <;> simp [State.raise, State.loseOutput, h]
@[simp] theorem State.raise_phase (c : FaultCause) (s : State) : (s.raise c).phase = .framing := by
  cases h : s.mode <;> simp [State.raise, State.loseOutput, h]
@[simp] theorem State.raise_inMem (c : FaultCause) (s : State) : (s.raise c).inMem = s.inMem := by
  cases h : s.mode <;> simp [State.raise, State.loseOutput, h]
@[simp] theorem State.raise_inLen (c : FaultCause) (s : State) : (s.raise c).inLen = s.inLen := by
  cases h : s.mode <;> simp [State.raise, State.loseOutput, h]
@[simp] theorem State.raise_hostq (c : FaultCause) (s : State) : (s.raise c).hostq = s.hostq := by
  cases h : s.mode <;> simp [State.raise, State.loseOutput, h]
@[simp] theorem State.startPass_cfg (m : Mode) (s : State) : (s.startPass m).cfg = s.cfg := by cases m <;> rfl
@[simp] theorem State.startPass_prev (m : Mode) (s : State) : (s.startPass m).prev = Config.startPixel := by cases m <;> rfl
@[simp] theorem State.startPass_cache (m : Mode) (s : State) : (s.startPass m).cache = Vector.replicate 64 Config.zeroPixel := by cases m <;> rfl
@[simp] theorem State.startPass_runCount (m : Mode) (s : State) : (s.startPass m).runCount = 0 := by cases m <;> rfl
@[simp] theorem State.startPass_pxi (m : Mode) (s : State) : (s.startPass m).pxi = 0 := by cases m <;> rfl
@[simp] theorem State.startPass_optr (m : Mode) (s : State) : (s.startPass m).optr = 0 := by cases m <;> rfl
@[simp] theorem State.startPass_iptr (m : Mode) (s : State) : (s.startPass m).iptr = 0 := by cases m <;> rfl
@[simp] theorem State.startPass_pxo (m : Mode) (s : State) : (s.startPass m).pxo = 0 := by cases m <;> rfl
@[simp] theorem State.startPass_mode (m : Mode) (s : State) : (s.startPass m).mode = m := by cases m <;> rfl
@[simp] theorem State.startPass_status (m : Mode) (s : State) : (s.startPass m).status = .busy := by cases m <;> rfl
@[simp] theorem State.startPass_fclass (m : Mode) (s : State) : (s.startPass m).fclass = none := by cases m <;> rfl
@[simp] theorem State.startPass_fcause (m : Mode) (s : State) : (s.startPass m).fcause = none := by cases m <;> rfl
@[simp] theorem State.startPass_phase (m : Mode) (s : State) : (s.startPass m).phase = .framing := by cases m <;> rfl
@[simp] theorem State.startPass_inMem (m : Mode) (s : State) : (s.startPass m).inMem = s.inMem := by cases m <;> rfl
@[simp] theorem State.startPass_inLen (m : Mode) (s : State) : (s.startPass m).inLen = s.inLen := by cases m <;> rfl
@[simp] theorem State.startPass_hostq (m : Mode) (s : State) : (s.startPass m).hostq = s.hostq := by cases m <;> rfl

end Sys2Proof.Machine
end

