-- ==== Sys2Proof/Laws/Ops.lean ====
section
/-! SUPPORT. What each shared operation can do, said once: producing pixels, completing an opcode,
executing one, fetching one, raising a fault, starting a pass. -/

namespace Sys2Proof.Machine

/-- `produceN` sets len(PIX) to the pixels produced so far, if it produces any. -/
theorem State.produceN_pixLen (p : Pixel) (n : Nat) (s : State) (h : 0 < n) :
    (s.produceN p n).pixLen = s.pxo + n := by
  induction n generalizing s with
  | zero => omega
  | succ n ih =>
    cases n with
    | zero => rfl
    | succ n => rw [State.produceN, ih _ (by omega)]; simp; omega

/-- `produceN` leaves every byte of PIX outside the pixels it writes alone. -/
theorem State.produceN_read_outside (p : Pixel) (n : Nat) (s : State) (a : Nat)
    (h : a < 4 * s.pxo ∨ 4 * (s.pxo + n) ≤ a) : (s.produceN p n).pixMem.read a = s.pixMem.read a := by
  induction n generalizing s with
  | zero => rfl
  | succ n ih =>
    rw [State.produceN, ih _ (by simp; omega)]
    exact Memory.read_writePixel_outside _ _ _ _ (by omega)

/-- `produceN` writes its pixel at each of the positions PXO to PXO + n − 1. -/
theorem State.produceN_readPixel (p : Pixel) (n : Nat) (s : State) (j : Nat)
    (h : s.pxo ≤ j) (h' : j < s.pxo + n) : (s.produceN p n).pixMem.readPixel j = some p := by
  induction n generalizing s with
  | zero => omega
  | succ n ih =>
    rw [State.produceN]
    by_cases hj : j = s.pxo
    · subst hj
      rw [Memory.readPixel, Memory.readBytes_congr (m' := (s.produce p).pixMem) fun x _ hx =>
        State.produceN_read_outside p n _ x (by simp; omega)]
      exact Memory.readPixel_writePixel _ _ _
    · exact ih _ (by simp; omega) (by simp; omega)

/-- `produceN` keeps PIX canonical. -/
theorem State.produceN_wf (p : Pixel) (n : Nat) (s : State) (h : s.pixMem.wf = true) :
    (s.produceN p n).pixMem.wf = true := by
  induction n generalizing s with
  | zero => exact h
  | succ n ih => exact ih _ (Memory.wf_writePixel _ _ h)

/-- What completing an opcode does, whole. -/
theorem State.completeOpcode_effect (len : Nat) (p : Pixel) (n : Nat) (s : State) (h : 0 < n) :
    OpcodeEffect len p n s (s.completeOpcode len p n) := by
  refine ⟨?_, fun j h1 h2 => ?_, fun a ha => ?_⟩
  · rw [State.mk.injEq]
    simp [cacheStore, State.produceN_pixLen p n s h]
  · simpa using State.produceN_readPixel p n s j h1 h2
  · simpa using State.produceN_read_outside p n s a ha

/-- Executing an opcode that is no overlong RUN completes it. -/
theorem exec_completes (i : Instr) (s : State)
    (h : ∀ n, i = .run n → s.pxo + n ≤ s.pixelCount) :
    exec i s = .next (s.completeOpcode i.length (opcodePixel i ⟨s.prev, s.cache⟩) (opcodeCount i)) := by
  cases i with
  | run n =>
    have := h n rfl
    simp [exec, execRun, Nat.not_lt.mpr this, Instr.length, opcodePixel, opcodeCount]
  | _ => rfl

/-- Executing an overlong RUN takes its fault (R188). -/
theorem exec_run_overrun (n : Nat) (s : State) (h : s.pixelCount < s.pxo + n) :
    exec (.run n) s = .next (s.raise .runOverrun) := by simp [exec, execRun, h]

/-- Every opcode answers a next state. -/
theorem exec_next (i : Instr) (s : State) : ∃ t, exec i s = .next t := by
  cases i with
  | run n => unfold exec execRun; dsimp only; split <;> exact ⟨_, rfl⟩
  | _ => exact ⟨_, rfl⟩

/-- The inversion of a fetch that finds an opcode: its bytes are whole, inside the stream, and decode
to it. -/
theorem State.fetch_opcode {s : State} {i : Instr} (h : s.fetch = .opcode i) :
    ∃ b0 bs, s.inMem.read (streamOffset s.iptr) = some b0 ∧ i.length = oplen b0 ∧
      s.iptr + i.length ≤ s.streamLen ∧
      s.inMem.readBytes (streamOffset s.iptr) i.length = some bs ∧
      decode bs = .ok (i, []) := by
  unfold State.fetch at h
  split at h
  · simp at h
  split at h
  · simp at h
  rename_i b0 hb0
  split at h
  · simp at h
  split at h
  · simp at h
  rename_i bs hbs
  split at h
  · simp at h
  rename_i rest hd
  simp only [Fetched.opcode.injEq] at h
  subst h
  obtain ⟨b, more, rfl, hl, hlen⟩ := decode_ok_length hd
  have hb : b = b0 := by
    have := oplen_pos b0
    obtain ⟨k, hk⟩ : ∃ k, oplen b0 = k + 1 := ⟨oplen b0 - 1, by omega⟩
    rw [hk] at hbs
    simp only [Memory.readBytes, hb0, Option.bind_some, Option.map_eq_some_iff] at hbs
    obtain ⟨_, _, hbs⟩ := hbs
    exact ((List.cons.inj hbs).1).symm
  subst hb
  have hlb : (b :: more).length = oplen b := Memory.readBytes_length hbs
  have hr : rest = [] := by
    have : rest.length = 0 := by omega
    exact List.eq_nil_of_length_eq_zero this
  exact ⟨b, b :: more, hb0, hl, by omega, by rw [hl]; exact hbs, by rw [hd, hr]⟩

/-- A fetch never meets bytes that do not decode (R80, R240). -/
theorem State.fetch_ne_undecoded (s : State) : s.fetch ≠ .undecoded := by
  unfold State.fetch
  split
  · simp
  split
  · simp
  rename_i b0 hb0
  split
  · simp
  split
  · simp
  rename_i bs hbs
  have hpos := oplen_pos b0
  obtain ⟨k, hk⟩ : ∃ k, oplen b0 = k + 1 := ⟨oplen b0 - 1, by omega⟩
  have hbs' := hbs
  rw [hk] at hbs'
  simp only [Memory.readBytes, hb0, Option.bind_some, Option.map_eq_some_iff] at hbs'
  obtain ⟨l, hl, rfl⟩ := hbs'
  obtain ⟨i, hi, _⟩ := decode_whole b0 l (by simp [Memory.readBytes_length hl, hk])
  simp [hi]

/-- The registers a fault leaves (R236) and what it takes away (R237, R238), in an encode pass. -/
theorem State.raise_encode (c : FaultCause) (s : State) (h : s.mode = .encode) :
    (s.raise c).outMem = [] ∧ (s.raise c).pixMem = s.pixMem ∧ (s.raise c).pixLen = s.pixLen ∧
      (s.raise c).header = s.header := by
  simp [State.raise, State.loseOutput, h, State.header]

/-- The same in a decode pass: PIX holds nothing. -/
theorem State.raise_decode (c : FaultCause) (s : State) (h : s.mode = .decode) :
    (s.raise c).outMem = s.outMem ∧ (s.raise c).pixMem = [] ∧ (s.raise c).pixLen = 0 := by
  simp [State.raise, State.loseOutput, h]

/-- The start command gives the pass an empty result buffer and leaves the other buffers alone
(R51, R53). -/
theorem State.startPass_buffers (m : Mode) (s : State) :
    (m = .encode → (s.startPass m).outMem = [] ∧ (s.startPass m).pixMem = s.pixMem ∧
      (s.startPass m).pixLen = s.pixLen ∧ (s.startPass m).header = s.header) ∧
    (m = .decode → (s.startPass m).outMem = s.outMem ∧ (s.startPass m).pixMem = [] ∧
      (s.startPass m).pixLen = 0) := by
  constructor
  · rintro rfl; exact ⟨rfl, rfl, rfl, rfl⟩
  · rintro rfl; exact ⟨rfl, rfl, rfl⟩

/-- A step while a pass runs and while none does. -/
theorem step_encode_framing {s : State} (h : s.status = .busy) (hm : s.mode = .encode)
    (hp : s.phase = .framing) : step s = encodeFraming s := by simp [step, h, hm, hp]

theorem step_encoding {s : State} (h : s.Encoding) :
    step s = if s.pxi < s.pixelCount then encoderStep s else encodeClosing s := by
  simp [step, h.1, h.2.1, h.2.2]

theorem step_decode_framing {s : State} (h : s.status = .busy) (hm : s.mode = .decode)
    (hp : s.phase = .framing) : step s = decodeFraming s := by simp [step, h, hm, hp]

theorem step_decoding {s : State} (h : s.Decoding) : step s = decoderStep s := by
  simp [step, h.1, h.2.1, h.2.2]

theorem step_not_busy {s : State} (h : s.status ≠ .busy) : step s = hostStep s := by
  unfold step
  split <;> simp_all

end Sys2Proof.Machine
end

