-- ==== Sys2Proof/Laws/PerInstr.lean ====
section
/-! SUPPORT. Statements for all instructions, one lemma a constructor: a well-formed instruction's
encoding starts with a tag byte from which `oplen` reads the length of the whole encoding (30_encoding.md
R77). -/

namespace Sys2Proof.Laws.TagByteGivesTheLength

/-- The encoding of a well-formed instruction is `oplen` of its first byte long, which is the
instruction's length. -/
def Statement (i : Instr) : Prop :=
  i.wf = true → ∃ b0 more, encode i = b0 :: more ∧ oplen b0 = i.length ∧ (encode i).length = i.length

theorem rgb (r g b : Byte) : Statement (.rgb r g b) := fun _ =>
  ⟨_, _, rfl, (show oplen tagRgb = 4 by decide), rfl⟩

theorem rgba (r g b a : Byte) : Statement (.rgba r g b a) := fun _ =>
  ⟨_, _, rfl, (show oplen tagRgba = 5 by decide), rfl⟩

theorem index (k : Slot) : Statement (.index k) := fun _ =>
  ⟨_, _, rfl, (show ∀ k : Slot, oplen (BitVec.ofNat 8 k.val) = 1 by decide) k, rfl⟩

theorem diff (dr dg db : Int) : Statement (.diff dr dg db) := fun h =>
  ⟨_, _, rfl, oplen_one (by
    simp only [Instr.wf, inRange, Bool.and_eq_true, decide_eq_true_eq] at h
    rw [BitVec.toNat_ofInt]; omega), rfl⟩

theorem luma (dg drg dbg : Int) : Statement (.luma dg drg dbg) := fun h =>
  ⟨_, _, rfl, oplen_two (by
    simp only [Instr.wf, inRange, Bool.and_eq_true, decide_eq_true_eq] at h
    rw [BitVec.toNat_ofInt]; omega), rfl⟩

theorem run (n : Nat) : Statement (.run n) := fun h =>
  ⟨_, _, rfl, oplen_one (by
    simp only [Instr.wf, Config.runMax, Bool.and_eq_true, decide_eq_true_eq] at h
    rw [BitVec.toNat_ofInt]; omega), rfl⟩

end Sys2Proof.Laws.TagByteGivesTheLength
end

