-- ==== Sys2Proof/Tests/Slice0.lean ====
section
/-! SUPPORT. The model's own tests, each on one step, one opcode or one function, with expected results
from the spec's formats and vectors (30_encoding.md R71 to R79, 95_test_vectors.md, named in each
comment), and a witness for every hypothesis of the statements. -/

namespace Sys2Proof.Tests

open Sys2Proof.Machine

/-- The next state of an outcome. -/
def nextOf : Result → Option State
  | .next t => some t
  | .fault _ => none
  | .refused _ => none

/-- A decode pass in its stream: the stream's bytes, and an n × 1 image of which nothing is produced. -/
def decState (stream : List Byte) (n : Nat) : State :=
  { State.reset with
    mode := .decode, status := .busy, phase := .stream, width := BitVec.ofNat 32 n, height := 1
    channels := 4
    inMem := Memory.ofBytes (List.replicate 14 0 ++ stream ++ Config.Params.default.endMarker)
    inLen := 14 + stream.length + 8 }

/-- An encode pass in its stream: an image of one row, the header already written. -/
def encState (ps : List Pixel) : State :=
  { State.reset with
    mode := .encode, status := .busy, phase := .stream, width := BitVec.ofNat 32 ps.length, height := 1
    channels := 4, optr := 14, outMem := Memory.ofBytes (List.replicate 14 0)
    pixMem := Memory.ofPixels ps, pixLen := ps.length }

/-- A pass that has just started, with its header registers. -/
def framingState (m : Mode) (w h : BitVec 32) (ch cs : Byte) : State :=
  { State.reset with
    mode := m, status := .busy, phase := .framing, width := w, height := h, channels := ch
    colorSpace := cs }

/-- The header bytes of a 2 × 1 RGBA image under the default MAGIC (HV1). -/
def hdr214 : List Byte := [0x71, 0x6F, 0x69, 0x66, 0, 0, 0, 2, 0, 0, 0, 1, 4, 0]

/-- A decode pass that has just started on a container. -/
def decFraming (bs : List Byte) : State :=
  { State.reset with
    mode := .decode, status := .busy, phase := .framing, inMem := Memory.ofBytes bs, inLen := bs.length }

/-! ## WellFormed refuses an ill-formed term for each check, and takes the ends of each range (R78) -/

theorem test_wf_diff_red : (Instr.diff 2 0 0).wf = false ∧ (Instr.diff (-3) 0 0).wf = false := by decide
theorem test_wf_diff_green : (Instr.diff 0 2 0).wf = false ∧ (Instr.diff 0 (-3) 0).wf = false := by decide
theorem test_wf_diff_blue : (Instr.diff 0 0 2).wf = false ∧ (Instr.diff 0 0 (-3)).wf = false := by decide
theorem test_wf_luma_green : (Instr.luma 32 0 0).wf = false ∧ (Instr.luma (-33) 0 0).wf = false := by decide
theorem test_wf_luma_red : (Instr.luma 0 8 0).wf = false ∧ (Instr.luma 0 (-9) 0).wf = false := by decide
theorem test_wf_luma_blue : (Instr.luma 0 0 8).wf = false ∧ (Instr.luma 0 0 (-9)).wf = false := by decide
theorem test_wf_run : (Instr.run 0).wf = false ∧ (Instr.run 63).wf = false := by decide
theorem test_wf_ends :
    (Instr.diff (-2) 1 (-2)).wf ∧ (Instr.luma 31 7 (-8)).wf ∧ (Instr.luma (-32) (-8) 7).wf ∧
      (Instr.run 1).wf ∧ (Instr.run 62).wf ∧ (Instr.index 63).wf := by decide

/-! ## Words written out from the formats decode to what they stand for, and the encoder writes them -/

/-- R71, PV2: payload bytes FE and FF are data. -/
theorem test_decode_rgb :
    (decode [0b11111110, 0xFE, 0xFF, 0xFE]).toOption = some (.rgb 254 255 254, []) := by decide
/-- R72, PV3. -/
theorem test_decode_rgba :
    (decode [0b11111111, 1, 2, 3, 0x80]).toOption = some (.rgba 1 2 3 128, []) := by decide
/-- R73, PV5. -/
theorem test_decode_index : (decode [0b00110101]).toOption = some (.index 53, []) := by decide
/-- R74, PV11: red is the high pair. -/
theorem test_decode_diff :
    (decode [0b01111010]).toOption = some (.diff 1 0 0, []) ∧
      (decode [0b01101011]).toOption = some (.diff 0 0 1, []) := by decide
/-- R75, PV20: red minus green is the high nibble. -/
theorem test_decode_luma :
    (decode [0b10100000, 0b10101000]).toOption = some (.luma 0 2 0, []) ∧
      (decode [0b10000000, 0b00001111]).toOption = some (.luma (-32) (-8) 7, []) := by decide
/-- R76, PV22: the ends of RUN's byte range. -/
theorem test_decode_run :
    (decode [0b11000000]).toOption = some (.run 1, []) ∧
      (decode [0b11111101]).toOption = some (.run 62, []) := by decide
/-- R77: an opcode that is cut short is refused by name. -/
theorem test_decode_truncated :
    decode [] = .error .noByte ∧ decode [0xFE, 1, 2] = .error .truncated ∧
      decode [0xFF, 1, 2, 3] = .error .truncated ∧ decode [0x80] = .error .truncated :=
  ⟨rfl, rfl, rfl, rfl⟩
/-- PV27. -/
theorem test_oplen :
    [0x00, 0x7F, 0x80, 0xBF, 0xC0, 0xFD, 0xFE, 0xFF].map oplen = [1, 1, 2, 2, 1, 1, 4, 5] := by decide
/-- PV8, PV18, PV22, PV5. -/
theorem test_encode :
    encode (.diff 1 1 1) = [0x7F] ∧ encode (.luma 31 7 (-8)) = [0xBF, 0xF0] ∧
      encode (.run 61) = [0xFC] ∧ encode (.index 63) = [0x3F] := by decide
/-- The opcode table's bit numbering: the first byte is the low one. -/
theorem test_table_word :
    decodeTableWord 32 0x0A0AFAFE = some (.rgb 250 10 10) ∧
      decodeTableWord 16 0xF0BF = some (.luma 31 7 (-8)) ∧ decodeTableWord 8 0xC1 = some (.run 2) := by
  decide

/-! ## The opcodes (R183 to R188) -/

/-- R183's example: alpha is PREV's, CACHE[27] takes the pixel, the cursors advance. -/
theorem test_exec_rgb :
    (nextOf (exec (.rgb 250 10 10) (decState [] 3))).map
      (fun t => (t.prev, t.cache[27], t.iptr, t.pxo, t.pixMem.readPixel 0)) =
    some (⟨250, 10, 10, 255⟩, ⟨250, 10, 10, 255⟩, 4, 1, some ⟨250, 10, 10, 255⟩) := by decide
/-- R184's example: slot 34. -/
theorem test_exec_rgba :
    (nextOf (exec (.rgba 1 2 3 128) (decState [] 3))).map
      (fun t => (t.prev, t.cache[34], t.iptr, t.pxo)) =
    some (⟨1, 2, 3, 128⟩, ⟨1, 2, 3, 128⟩, 5, 1) := by decide
/-- DV10: INDEX of a slot never written gives the zero pixel, alpha 0. -/
theorem test_exec_index_unwritten :
    (nextOf (exec (.index 53) (decState [] 3))).map (fun t => (t.prev, t.iptr, t.pxo)) =
    some (⟨0, 0, 0, 0⟩, 1, 1) := by decide
/-- R185: where slot 0 was overwritten, INDEX of an unwritten slot puts the zero pixel back there. -/
theorem test_exec_index_overwrites_slot_zero :
    (nextOf (exec (.index 7)
      { decState [] 3 with cache := cacheStore State.reset.cache ⟨5, 5, 5, 255⟩ })).map
        (fun t => t.cache[0]) = some ⟨0, 0, 0, 0⟩ := by decide
/-- DV6: DIFF wraps below 0. -/
theorem test_exec_diff :
    (nextOf (exec (.diff (-2) (-2) (-2)) (decState [] 3))).map (fun t => (t.prev, t.iptr)) =
    some (⟨254, 254, 254, 255⟩, 1) := by decide
/-- R186: a wrap upward. -/
theorem test_exec_diff_up :
    (nextOf (exec (.diff 1 0 (-1)) { decState [] 3 with prev := ⟨255, 7, 9, 3⟩ })).map (·.prev) =
    some ⟨0, 7, 8, 3⟩ := by decide
/-- DV20. -/
theorem test_exec_luma :
    (nextOf (exec (.luma 31 7 7) { decState [] 3 with prev := ⟨250, 250, 250, 255⟩ })).map
      (fun t => (t.prev, t.iptr)) = some (⟨32, 25, 32, 255⟩, 2) := by decide
/-- DV8, with the two cross deltas told apart. -/
theorem test_exec_luma_cross :
    (nextOf (exec (.luma (-32) (-8) 7) { decState [] 3 with prev := ⟨100, 100, 100, 255⟩ })).map (·.prev) =
    some ⟨60, 68, 75, 255⟩ := by decide
/-- P1: RUN 2 of the start pixel stores it in slot 53 once. -/
theorem test_exec_run :
    (nextOf (exec (.run 2) (decState [] 2))).map
      (fun t => (t.pxo, t.iptr, t.cache[53], t.pixMem.readPixel 1)) =
    some (2, 1, ⟨0, 0, 0, 255⟩, some ⟨0, 0, 0, 255⟩) := by decide
/-- FV12: RUN 3 of 2 pixels. -/
theorem test_exec_run_overrun :
    (nextOf (exec (.run 3) (decState [] 2))).map (fun t => (t.status, t.fclass, t.fcause, t.pixMem.isEmpty)) =
    some (.fault, some .formatError, some .runOverrun, true) := by decide

/-! ## Steps -/

/-- P2's first step, fetched from IN. -/
theorem test_step_decodes :
    (nextOf (step (decState [0xAA, 0x88, 0xFE, 0xFA, 0x0A, 0x0A, 0x0B] 3))).map
      (fun t => (t.prev, t.iptr, t.pxo)) = some (⟨10, 10, 10, 255⟩, 2, 1) := by decide
/-- P5's last step: the literal is cut short. -/
theorem test_step_truncated :
    (nextOf (step { decState [0xC0, 0xFE, 1, 2] 2 with iptr := 1, pxo := 1 })).map
      (fun t => (t.status, t.fcause)) = some (.fault, some .truncatedStream) := by decide
/-- FV8: bytes remain after N pixels. -/
theorem test_step_trailing :
    (nextOf (step { decState [0xC1, 0x00] 2 with iptr := 1, pxo := 2 })).map
      (fun t => (t.status, t.fcause)) = some (.fault, some .trailingBytes) := by decide
/-- EV5's second step: the pending run is flushed before the DIFF. -/
theorem test_step_encodes :
    (nextOf (step { encState [⟨0, 0, 0, 255⟩, ⟨1, 0, 0, 255⟩] with pxi := 1, runCount := 1 })).map
      (fun t => (t.outMem.readBytes 14 2, t.optr, t.runCount, t.prev, t.cache[56])) =
    some (some [0xC0, 0x7A], 16, 0, ⟨1, 0, 0, 255⟩, ⟨1, 0, 0, 255⟩) := by decide
/-- R152: the 62nd repeat is emitted although more pixels follow. -/
theorem test_step_run_full :
    (nextOf (step { encState (List.replicate 3 ⟨0, 0, 0, 255⟩) with runCount := 61 })).map
      (fun t => (t.outMem.read 14, t.optr, t.runCount, t.pxi)) = some (some 0xFD, 15, 0, 1) := by decide
/-- FV7: a wrong end marker. -/
theorem test_step_bad_end_marker :
    (nextOf (step (decFraming (hdr214 ++ [0xC1, 0, 0, 0, 0, 0, 0, 0, 0])))).map
      (fun t => (t.status, t.fcause)) = some (.fault, some .badEndMarker) := by decide
/-- HV1 through the step: the header is written to OUT. -/
theorem test_step_header :
    (nextOf (step { framingState .encode 2 1 4 0 with pixLen := 2 })).map
      (fun t => (t.outMem.readBytes 0 14, t.optr, t.phase)) = some (some hdr214, 14, .stream) := by decide
/-- The word placed by `withFetchWord` is what the first step after reset runs (PV1). -/
theorem test_fetch_word :
    (nextOf (step (State.reset.withFetchWord 32 0x0A0AFAFE))).map (fun t => (t.prev, t.iptr)) =
      some (⟨250, 10, 10, 255⟩, 4) ∧
    (nextOf (step (State.reset.withFetchWord 8 0xFD))).map (·.pxo) = some 62 := by decide

/-! ## The grid (R214) -/

/-- CV3: in a 2 × 2 image row 0 is pixels 0 and 1, row 1 is pixels 2 and 3, and there is no row 2. -/
theorem test_grid_rows :
    let ps : List Pixel := [⟨0, 0, 0, 0⟩, ⟨0, 0, 0, 255⟩, ⟨1, 2, 3, 128⟩, ⟨4, 5, 6, 7⟩]
    let s : State := { encState ps with width := 2, height := 2 }
    s.pixelAt 0 1 = some ⟨0, 0, 0, 255⟩ ∧ s.pixelAt 1 0 = some ⟨1, 2, 3, 128⟩ ∧ s.pixelAt 2 0 = none ∧
      splitRows 2 2 ps = [[⟨0, 0, 0, 0⟩, ⟨0, 0, 0, 255⟩], [⟨1, 2, 3, 128⟩, ⟨4, 5, 6, 7⟩]] := by decide
/-- R215: a grid whose rows differ in length. -/
theorem test_grid_not_rectangular :
    flattenGrid [[Config.startPixel, Config.zeroPixel], [Config.startPixel]] = .error .notRectangular := rfl

/-! ## A witness for the hypotheses of every statement that has some -/

theorem witness_DecodeInvertsEncode :
    (Instr.luma (-32) 7 (-8)).wf = true ∧ (Instr.run 62).wf = true ∧ (Instr.diff (-2) 1 (-2)).wf = true := by
  decide
theorem witness_EncodeInvertsDecode : decode [0xBF, 0xF0, 9] = .ok (.luma 31 7 (-8), [9]) := rfl
theorem witness_EveryTagByteSelectsOneOpcode :
    (0x3F : Byte).toNat ≤ 0x3F ∧ (0x40 ≤ (0x40 : Byte).toNat ∧ (0x40 : Byte).toNat ≤ 0x7F) ∧
      (0x80 ≤ (0xBF : Byte).toNat ∧ (0xBF : Byte).toNat ≤ 0xBF) ∧
      (0xC0 ≤ (0xFD : Byte).toNat ∧ (0xFD : Byte).toNat ≤ 0xFD) ∧ (0xFE : Byte).toNat = 0xFE ∧
      (0xFF : Byte).toNat = 0xFF := by decide
theorem witness_HeaderRoundTrip :
    (⟨0xFFFFFFFF, 1, 4, 1⟩ : Header).legal = true ∧
      decodeHeader Config.Params.default hdr214 = .ok ⟨2, 1, 4, 0⟩ := ⟨by decide, rfl⟩
/-- One header for each clause, in order: channels, colour space, dimension, legal. -/
theorem witness_EncodeHeaderTestsInOrder :
    let bad1 : Header := ⟨1, 1, 5, 0⟩
    let bad2 : Header := ⟨1, 1, 4, 2⟩
    let bad3 : Header := ⟨0, 5, 4, 1⟩
    let good : Header := ⟨0xFFFFFFFF, 1, 3, 0⟩
    ¬ (bad1.channels = 3 ∨ bad1.channels = 4) ∧
      ((bad2.channels = 3 ∨ bad2.channels = 4) ∧ ¬ (bad2.colorSpace = 0 ∨ bad2.colorSpace = 1)) ∧
      ((bad3.channels = 3 ∨ bad3.channels = 4) ∧ (bad3.colorSpace = 0 ∨ bad3.colorSpace = 1) ∧
        (bad3.width = 0 ∨ bad3.height = 0)) ∧
      (good.channels = 3 ∨ good.channels = 4) ∧ (good.colorSpace = 0 ∨ good.colorSpace = 1) ∧
        good.width ≠ 0 ∧ good.height ≠ 0 := by decide
/-- The header bytes of each clause (HV11, HV12, HV13, HV14, HV15, HV6), as the lists the clauses test. -/
theorem witness_DecodeHeaderTestsInOrder :
    let magic := Config.Params.default.magic.toList
    (hdr214.drop 1).length ≠ 14 ∧ [0x71, 0x6F, 0x69, 0x67] ≠ magic ∧
      ([0x71, 0x6F, 0x69, 0x66] = magic ∧ ¬ ((5 : Byte) = 3 ∨ (5 : Byte) = 4)) ∧
      ([0x71, 0x6F, 0x69, 0x66] = magic ∧ ((4 : Byte) = 3 ∨ (4 : Byte) = 4) ∧
        ¬ ((2 : Byte) = 0 ∨ (2 : Byte) = 1)) ∧
      ([0x71, 0x6F, 0x69, 0x66] = magic ∧ ((4 : Byte) = 3 ∨ (4 : Byte) = 4) ∧
        ((0 : Byte) = 0 ∨ (0 : Byte) = 1) ∧
        ([0, 0, 0, 0] = [(0 : Byte), 0, 0, 0] ∨ [0, 0, 0, 1] = [(0 : Byte), 0, 0, 0])) ∧
      ([0x71, 0x6F, 0x69, 0x66] = magic ∧ ((4 : Byte) = 3 ∨ (4 : Byte) = 4) ∧
        ((0 : Byte) = 0 ∨ (0 : Byte) = 1) ∧
        ¬ ([0x80, 0, 0, 0] = [(0 : Byte), 0, 0, 0] ∨ [0, 0, 0, 1] = [(0 : Byte), 0, 0, 0])) := by decide
theorem witness_CacheStoreIsDirectMapped :
    CacheLegal State.reset.cache ∧ State.reset.cache[pixelHash Config.zeroPixel] = Config.zeroPixel :=
  ⟨fun k => .inl (by simp [State.reset]), by decide⟩
theorem witness_DeltaParameterIsExactlyTheLaw :
    ∃ f : Byte → Byte → Int, ∀ c q : Byte, (f c q - ((c.toNat : Int) - q.toNat)) % 256 = 0 :=
  ⟨fun c q => (c.toNat : Int) - q.toNat, fun c q => by simp⟩
theorem witness_RunCompletes :
    (Instr.run 62).wf = true ∧ (decState [] 62).pxo + 62 ≤ (decState [] 62).pixelCount := by decide
theorem witness_RunOverrunTakesItsFault :
    (decState [] 61).mode = .decode ∧ (decState [] 61).pixelCount < (decState [] 61).pxo + 62 := by decide
theorem witness_PostUpdateFollowsEveryOpcode :
    (Instr.run 2).wf = true ∧
      ∀ n, Instr.run 2 = .run n → (decState [] 2).pxo + n ≤ (decState [] 2).pixelCount :=
  ⟨rfl, fun n h => by cases h; decide⟩
theorem witness_StepRunsTheDecodedOpcode :
    (decState [0xAA, 0x88] 1).Decoding ∧ (decState [0xAA, 0x88] 1).pxo ≠ (decState [0xAA, 0x88] 1).pixelCount ∧
      decode [0xAA, 0x88] = .ok (.luma 10 0 0, []) ∧ (decState [0xAA, 0x88] 1).StreamHolds [0xAA, 0x88] :=
  ⟨⟨rfl, rfl, rfl⟩, by decide, rfl, by decide, by decide⟩
/-- FV2 (the stream is empty) and FV11 (LUMA without its second byte). -/
theorem witness_TruncatedStreamTakesItsFault :
    ((decState [] 2).Decoding ∧ (decState [] 2).pxo < (decState [] 2).pixelCount ∧
      (decState [] 2).iptr = (decState [] 2).streamLen) ∧
    (decState [0xA0] 1).Decoding ∧ (decState [0xA0] 1).pxo < (decState [0xA0] 1).pixelCount ∧
      (decState [0xA0] 1).iptr < (decState [0xA0] 1).streamLen ∧
      (decState [0xA0] 1).inMem.read (streamOffset 0) = some 0xA0 ∧
      (decState [0xA0] 1).streamLen < 0 + oplen 0xA0 :=
  ⟨⟨⟨rfl, rfl, rfl⟩, by decide, by decide⟩, ⟨rfl, rfl, rfl⟩, by decide, by decide, by decide, by decide⟩
theorem witness_EndTestDecidesThePass :
    (∃ s : State, s.Decoding ∧ s.pxo = s.pixelCount ∧ s.iptr = s.streamLen) ∧
      ∃ s : State, s.Decoding ∧ s.pxo = s.pixelCount ∧ s.iptr ≠ s.streamLen :=
  ⟨⟨{ decState [0xC1] 2 with iptr := 1, pxo := 2 }, ⟨rfl, rfl, rfl⟩, by decide, by decide⟩,
    { decState [0xC1, 0] 2 with iptr := 1, pxo := 2 }, ⟨rfl, rfl, rfl⟩, by decide, by decide⟩
theorem witness_DecoderStepMakesProgress :
    ∃ s t : State, s.Decoding ∧ step s = .next t ∧ t.status = .busy :=
  ⟨decState [0xFD] 62, (decState [0xFD] 62).completeOpcode 1 Config.startPixel 62, ⟨rfl, rfl, rfl⟩,
    rfl, by simp [decState]⟩
/-- EV2, EV22, EV5, EV3, EV4: one pixel for each clause. -/
theorem witness_SelectionFollowsTheOrderedTests :
    let c : Cache := State.reset.cache
    let hits : Pixel → Bool := fun p => hitsCache c p
    let d := delta Config.Params.default
    hits ⟨0, 0, 0, 0⟩ = true ∧ (hits ⟨0, 0, 0, 254⟩ = false ∧ (254 : Byte) ≠ Config.startPixel.a) ∧
      (hits ⟨1, 0, 0, 255⟩ = false ∧ d 1 0 = 1 ∧ d 0 0 = 0) ∧
      (hits ⟨3, 3, 3, 255⟩ = false ∧ d 3 0 = 3) ∧
      (hits ⟨128, 0, 0, 255⟩ = false ∧ d 128 0 = -128) := by decide
/-- The count reaches 62, the last pixel, and neither. -/
theorem witness_RunPathCountsOrEmits :
    let s := encState (List.replicate 2 Config.startPixel)
    let full : State := { s with runCount := 61 }
    let atEnd : State := { s with pxi := 1, runCount := 1 }
    (s.Encoding ∧ full.Encoding ∧ atEnd.Encoding) ∧
      s.pixMem.readPixel 0 = some s.prev ∧ s.pixMem.readPixel 1 = some s.prev ∧ 1 < s.pixelCount ∧
      full.runCount.toNat + 1 = 62 ∧ atEnd.pxi = atEnd.pixelCount - 1 ∧
      ¬ (s.runCount.toNat + 1 = 62 ∨ s.pxi = s.pixelCount - 1) :=
  ⟨⟨⟨rfl, rfl, rfl⟩, ⟨rfl, rfl, rfl⟩, ⟨rfl, rfl, rfl⟩⟩, by decide⟩
theorem witness_EncoderEmitsFlushThenOpcode :
    let s : State := { encState [⟨0, 0, 0, 255⟩, ⟨1, 0, 0, 255⟩] with pxi := 1, runCount := 1 }
    s.Encoding ∧ s.pxi < s.pixelCount ∧ s.pixMem.readPixel s.pxi = some ⟨1, 0, 0, 255⟩ ∧
      (⟨1, 0, 0, 255⟩ : Pixel) ≠ s.prev ∧ s.runCount.toNat ≤ 62 ∧
      [0xC0, 0x7A] = (if s.runCount = 0 then [] else [BitVec.ofNat 8 (0xC0 + (s.runCount.toNat - 1))]) ++
        encode (selectOpcode s.cfg s.prev s.cache ⟨1, 0, 0, 255⟩) :=
  ⟨⟨rfl, rfl, rfl⟩, by decide⟩
theorem witness_PrevIsThePixelAfterEveryEncoderStep :
    let s := encState [⟨9, 9, 9, 255⟩]
    s.Encoding ∧ s.pxi < s.pixelCount ∧ s.pixMem.readPixel s.pxi = some ⟨9, 9, 9, 255⟩ ∧
      s.runCount.toNat ≤ 61 := ⟨⟨rfl, rfl, rfl⟩, by decide⟩
/-- The bytes FD C0 of S4: a RUN of 62 directly before another. -/
theorem witness_EncodedStreamBounds :
    encodeOps Config.Params.default (List.replicate 63 Config.startPixel) EncRegs.start =
      [.run 62, .run 1] := by decide
theorem witness_RegistersStayInLockStep :
    let c : Cache := Vector.replicate 64 ⟨0, 0, 0, 0⟩
    RegsAgree ⟨⟨0, 0, 0, 0⟩, c, 0⟩ ⟨⟨0, 0, 0, 0⟩, c⟩ ∧ Config.startPixel ≠ (⟨0, 0, 0, 0⟩ : Pixel) ∧
      (cacheStore c Config.startPixel)[pixelHash Config.startPixel] = Config.startPixel :=
  ⟨⟨rfl, fun _ _ => rfl, .inl rfl, fun k => .inl (by simp [Config.zeroPixel]), .inr (by simp)⟩,
    by decide, by decide⟩
theorem witness_DecodeDataInvertsEncodeData : 1 ≤ [Config.startPixel].length := by decide
theorem witness_DecodeDataIsTotal :
    decodeData [0xC1] 2 = .ok [Config.startPixel, Config.startPixel] ∧
      decodeData [0xFD] 63 = .error .truncatedStream ∧ decodeData [0xC1, 0] 2 = .error .trailingBytes ∧
      decodeData [0xFD] 61 = .error .runOverrun := ⟨rfl, rfl, rfl, rfl⟩
theorem witness_DecodeImageInvertsEncodeImage :
    let h : Header := ⟨1, 2, 3, 1⟩
    h.legal = true ∧ [Config.startPixel, ⟨7, 7, 7, 0⟩].length = h.pixelCount ∧
      exceedsCapacity Config.Params.default h.pixelCount = false := by decide
/-- A host that asks for an encode pass, for each way it can end. -/
theorem witness_EncodePassComputesEncodeImage :
    let ask (h : Header) (ps : List Pixel) : State := { State.reset with
      hostq := [.writeHeader h.width h.height h.channels h.colorSpace, .placePixels ps, .start .encode] }
    ((ask ⟨1, 1, 4, 0⟩ [Config.startPixel]).status ≠ .busy ∧
      (∃ bs, encodeImage Config.Params.default ⟨1, 1, 4, 0⟩ [Config.startPixel] = .done bs)) ∧
    encodeImage Config.Params.default ⟨2, 1, 4, 0⟩ [] = .fault .bufferLengthMismatch ∧
    encodeImage { Config.Params.default with maxPixels := some 1 } ⟨2, 1, 4, 0⟩ [] = .refused :=
  ⟨⟨by decide, _, rfl⟩, rfl, rfl⟩
theorem witness_DecodePassComputesDecodeImage :
    ({ State.reset with hostq := [.placeInput hdr214, .start .decode] } : State).status ≠ .busy ∧
    decodeImage Config.Params.default (hdr214 ++ [0xC1, 0, 0, 0, 0, 0, 0, 0, 1]) =
      .done (⟨2, 1, 4, 0⟩, [Config.startPixel, Config.startPixel]) ∧
    decodeImage Config.Params.default hdr214 = .fault .badLength ∧
    decodeImage { Config.Params.default with maxPixels := some 1 }
      (hdr214 ++ [0xC1, 0, 0, 0, 0, 0, 0, 0, 1]) = .refused := ⟨by decide, rfl, rfl, rfl⟩
theorem witness_EncodeFramingWritesTheHeader :
    let s : State := { framingState .encode 2 1 4 0 with pixLen := 2 }
    s.status = .busy ∧ s.mode = .encode ∧ s.phase = .framing ∧ s.header.legal = true ∧
      exceedsCapacity s.cfg s.pixelCount = false ∧ s.pixLen = s.pixelCount := by decide
theorem witness_EncodeFramingFaultsInOrder :
    (let s := framingState .encode 2 1 5 0
    s.status = .busy ∧ s.mode = .encode ∧ s.phase = .framing ∧
      encodeHeader s.cfg s.header = .error .imageBadChannels) ∧
    let s := framingState .encode 2 1 4 0
    s.status = .busy ∧ s.mode = .encode ∧ s.phase = .framing ∧ s.header.legal = true ∧
      exceedsCapacity s.cfg s.pixelCount = false ∧ s.pixLen ≠ s.pixelCount :=
  ⟨⟨rfl, rfl, rfl, rfl⟩, by decide⟩
theorem witness_EncodeClosingAppendsTheEndMarker :
    let s : State := { encState [Config.startPixel] with pxi := 1 }
    s.Encoding ∧ s.pxi = s.pixelCount := ⟨⟨rfl, rfl, rfl⟩, by decide⟩
/-- FV1's length, a wrong magic (FV3), a wrong trailer (FV7) and S7 itself. -/
theorem witness_DecodeFramingChecksInOrder :
    (let s := decFraming (hdr214.drop 1)
    s.status = .busy ∧ s.mode = .decode ∧ s.phase = .framing ∧ s.inLen < 14 + s.cfg.endLen) ∧
    (∀ trl ∈ [[(0 : Byte), 0, 0, 0, 0, 0, 0, 0], [0, 0, 0, 0, 0, 0, 0, 1]],
      let s := decFraming (hdr214 ++ [0xC1] ++ trl)
      s.status = .busy ∧ s.mode = .decode ∧ s.phase = .framing ∧ 14 + s.cfg.endLen ≤ s.inLen ∧
        s.inMem.readBytes 0 14 = some hdr214 ∧
        s.inMem.readBytes (s.inLen - s.cfg.endLen) s.cfg.endLen = some trl) ∧
    decodeHeader Config.Params.default hdr214 = .ok ⟨2, 1, 4, 0⟩ ∧
    decodeHeader Config.Params.default (0x72 :: hdr214.drop 1) = .error .badMagic ∧
    exceedsCapacity Config.Params.default (⟨2, 1, 4, 0⟩ : Header).pixelCount = false :=
  ⟨by decide, by decide, rfl, rfl, by decide⟩
theorem witness_CapacityIsRefused :
    let small : Config.Params := { Config.Params.default with maxPixels := some 1 }
    (let s : State := { framingState .encode 2 1 4 0 with cfg := small }
    s.status = .busy ∧ s.mode = .encode ∧ s.phase = .framing ∧ s.header.legal = true ∧
      exceedsCapacity s.cfg s.pixelCount = true) ∧
    (let s : State := { decFraming (hdr214 ++ [0xC1, 0, 0, 0, 0, 0, 0, 0, 1]) with cfg := small }
    s.status = .busy ∧ s.mode = .decode ∧ s.phase = .framing ∧ 14 + s.cfg.endLen ≤ s.inLen ∧
      s.inMem.readBytes 0 14 = some hdr214 ∧
      exceedsCapacity s.cfg (⟨2, 1, 4, 0⟩ : Header).pixelCount = true) ∧
    decodeHeader small hdr214 = .ok ⟨2, 1, 4, 0⟩ ∧ State.reset.cfg.maxPixels = none :=
  ⟨by decide, by decide, rfl, rfl⟩
theorem witness_RaiseEndsThePass : (decState [] 2).hostq = [] := rfl
theorem witness_StartCommandLoadsThePass :
    (∃ s : State, s.status ≠ .busy ∧ s.hostq = .start .encode :: []) ∧
      (∃ s : State, s.status ≠ .busy ∧ s.hostq = .start .decode :: []) ∧
      ∃ s t : State, s.status = .busy ∧ step s = .next t :=
  ⟨⟨{ State.reset with hostq := [.start .encode] }, by decide, rfl⟩,
    ⟨{ State.reset with hostq := [.start .decode] }, by decide, rfl⟩,
    decState [0x6A] 1, _, rfl, rfl⟩
theorem witness_HostPreparesThePass :
    (∃ s : State, s.status ≠ .busy ∧ s.hostq = .writeHeader 1 1 3 0 :: []) ∧
      (∃ s : State, s.status ≠ .busy ∧ s.hostq = .placePixels [Config.startPixel] :: []) ∧
      ∃ s : State, s.status ≠ .busy ∧ s.hostq = .placeInput [0x71] :: [] :=
  ⟨⟨{ State.reset with hostq := [.writeHeader 1 1 3 0] }, by decide, rfl⟩,
    ⟨{ State.reset with hostq := [.placePixels [Config.startPixel]] }, by decide, rfl⟩,
    { State.reset with hostq := [.placeInput [0x71]] }, by decide, rfl⟩
theorem witness_NothingHappensWithoutAHostCommand :
    State.reset.status ≠ .busy ∧ State.reset.hostq = [] := by decide

/-- The last pixel of a 2 × 3 image, two rows of three, and two rows of different length. -/
theorem witness_PixelBufferIsRowMajor :
    let ps := List.replicate 6 Config.startPixel
    let s : State := { encState ps with width := 2, height := 3 }
    (5 < s.pixelCount ∧ s.pixMem = Memory.ofPixels ps ∧ ps.length = s.pixelCount ∧ 2 < s.height.toNat ∧
      1 < s.width.toNat) ∧
    (∀ row ∈ List.replicate 2 (List.replicate 3 Config.startPixel), row.length = 3) ∧
      [Config.startPixel].length ≠ ([] : List Pixel).length := ⟨by decide, by decide, by decide⟩
theorem witness_ResetIsIdle :
    (∃ s : State, s.status = .idle ∧ s.hostq = [] ∧ s ≠ State.reset) ∧
      ∃ (s : State) (m : Mode) (q : List HostCmd), s.status = .idle ∧ s.hostq = .start m :: q :=
  ⟨⟨{ State.reset with iptr := 7 }, rfl, rfl, by decide⟩,
    { State.reset with hostq := [.start .decode] }, .decode, [], rfl, rfl⟩

/-- A legal state in the middle of a decode pass (two pixels due, the stream `C1`) and its step. -/
theorem witness_StepKeepsLegality :
    ∃ s t : State, s.Inv ∧ s.status = .busy ∧ step s = .next t := by
  refine ⟨decState [0xC1] 2, _, ?_, rfl, rfl⟩
  refine ⟨by decide, by decide, by decide, by decide, fun a => ?_, fun a => ?_, fun _ h => ?_,
    fun _ k => .inl ?_, ⟨fun h => ?_, fun _ => ⟨rfl, rfl⟩⟩, fun _ h => ?_, fun _ h => ?_, fun _ _ h => ?_,
    fun _ _ _ => ⟨by decide, by decide, by decide, by decide, by decide⟩⟩
  · simp only [decState, Memory.read_ofBytes]
    rw [Bool.eq_iff_iff]
    simp [Config.Params.default]
  · simp [decState, State.reset]
  · exact absurd h (by decide)
  · simp [decState, State.reset]
  · exact absurd h (by decide)
  · exact absurd h (by decide)
  · exact absurd h (by decide)
  · exact absurd h (by decide)

/-- The same state meets the premise of `LegalStatesNeverStick`. -/
theorem witness_LegalStatesNeverStick : ∃ s : State, s.Inv ∧ s.status = .busy :=
  witness_StepKeepsLegality.imp fun _ ⟨_, h, hb, _⟩ => ⟨h, hb⟩
theorem witness_PassesNeverWriteTheirInput :
    (∃ s t : State, step s = .next t ∧ s.status = .busy ∧ s.mode = .decode) ∧
      ∃ s t : State, step s = .next t ∧ s.status = .busy ∧ s.mode = .encode :=
  ⟨⟨decState [0x6A] 1, _, rfl, rfl, rfl⟩, encState [⟨9, 9, 9, 255⟩], _, rfl, rfl, rfl⟩
theorem witness_ResultsAreAppendOnly :
    (∃ s t : State, s.status = .busy ∧ s.phase = .stream ∧ step s = .next t ∧ t.status ≠ .fault ∧
      s.mode = .encode ∧ 13 < s.optr) ∧
    ∃ s t : State, s.status = .busy ∧ s.phase = .stream ∧ step s = .next t ∧ t.status ≠ .fault ∧
      s.mode = .decode ∧ t.status = .busy ∧ 3 < 4 * s.pxo :=
  ⟨⟨encState [⟨9, 9, 9, 255⟩], _, rfl, rfl, rfl, by decide, rfl, by decide⟩,
    { decState [0x6A] 2 with pxo := 1 }, _, rfl, rfl, rfl, by decide, rfl, by decide, by decide⟩
theorem witness_StreamIgnoresTheHeaderButN :
    ∃ (s t : State) (h : Header), s.status = .busy ∧ s.phase = .stream ∧ h.pixelCount = s.pixelCount ∧
      h ≠ s.header ∧ step s = .next t ∧ t.status ≠ .fault :=
  ⟨decState [0x6A] 2, _, ⟨1, 2, 3, 1⟩, rfl, rfl, by decide, by decide, rfl, by decide⟩

end Sys2Proof.Tests
end

section
/-! PROOFS. The builds' DELTA functions are exactly those the law of R7 allows: a build's DELTA is the
signed 8-bit difference plus a multiple of 256, and a table over the 256 × 256 operand pairs gives any
multiples one likes. -/

namespace Sys2Proof.Machine

/-- The 256 bytes. -/
def allBytes : List Byte := (List.finRange 256).map BitVec.ofFin

theorem mem_allBytes (b : Byte) : b ∈ allBytes :=
  List.mem_map.2 ⟨b.toFin, List.mem_finRange _, rfl⟩

/-- The default build, but that its DELTA adds `256 * g c q` to the wrapping default. -/
def tabulatedBuild (g : Byte → Byte → Int) : Config.Params :=
  { Config.Params.default with
    deltaBumps := (allBytes ×ˢ allBytes).map fun pair => (pair, g pair.1 pair.2) }

theorem deltaBump_tabulatedBuild (g : Byte → Byte → Int) (c q : Byte) :
    deltaBump (tabulatedBuild g) c q = g c q := by
  have hmem : (c, q) ∈ allBytes ×ˢ allBytes :=
    List.mem_product.2 ⟨mem_allBytes c, mem_allBytes q⟩
  simp [deltaBump, tabulatedBuild, List.lookup_graph (fun pair : Byte × Byte => g pair.1 pair.2) hmem]

theorem delta_default (c q : Byte) : delta Config.Params.default c q = (c - q).toInt := by
  simp [delta, deltaBump, Config.Params.default]

/-- The wrapping difference of two bytes differs from the difference of their values by a multiple of 256. -/
theorem toInt_sub_emod (c q : Byte) : ((c - q).toInt - ((c.toNat : Int) - q.toNat)) % 256 = 0 := by
  rw [BitVec.toInt_eq_toNat_cond, BitVec.toNat_sub]
  split <;> omega

/-- R7's law: every build's DELTA is congruent to `c - q`, as the bump adds a multiple of 256. -/
theorem delta_law (cfg : Config.Params) (c q : Byte) :
    (delta cfg c q - ((c.toNat : Int) - q.toNat)) % 256 = 0 := by
  have hwrap := toInt_sub_emod c q
  unfold delta
  omega

theorem delta_default_range (c q : Byte) :
    -128 ≤ delta Config.Params.default c q ∧ delta Config.Params.default c q ≤ 127 := by
  rw [delta_default]
  have hlow := BitVec.le_toInt (c - q)
  have hhigh := BitVec.toInt_lt (x := c - q)
  omega

/-- How many times 256 the function `f` lies above the wrapping default at an operand pair. -/
def bumpOf (f : Byte → Byte → Int) (c q : Byte) : Int := (f c q - (c - q).toInt) / 256

/-- At an operand pair where `f` obeys R7's law, the build that tabulates its bumps computes it. -/
theorem delta_tabulatedBuild_bumpOf {f : Byte → Byte → Int} {c q : Byte}
    (hlaw : (f c q - ((c.toNat : Int) - q.toNat)) % 256 = 0) :
    delta (tabulatedBuild (bumpOf f)) c q = f c q := by
  have hwrap := toInt_sub_emod c q
  rw [delta, deltaBump_tabulatedBuild, bumpOf]
  omega

/-- Settles O11: the law holds by the form of `delta`, the default's range is that of a signed byte,
and the build of a lawful function is the table of its bumps. -/
theorem deltaParameterIsExactlyTheLaw : Obligations.DeltaParameterIsExactlyTheLaw :=
  ⟨delta_law, delta_default_range,
    fun f hlaw => ⟨tabulatedBuild (bumpOf f), fun c q => delta_tabulatedBuild_bumpOf (hlaw c q)⟩⟩

end Sys2Proof.Machine
end

section
/-! PROOFS. The pixel count, what a step can answer (one inversion lemma for a running pass, one for
the host's turn), and two statements that follow from it: an idle block waits for the host, and a pass
never writes its input. -/

namespace Sys2Proof.Machine

/-- N fits 64 bits (R8, R25). -/
theorem pixelCountOf_lt (w h : BitVec 32) : pixelCountOf w h < 2 ^ 64 :=
  calc w.toNat * h.toNat < 2 ^ 32 * 2 ^ 32 := Nat.mul_lt_mul'' w.isLt h.isLt
    _ = 2 ^ 64 := rfl

/-- Settles O54: N is by definition the product of two naturals, each below `2 ^ 32`. -/
theorem pixelCountIsExact : Obligations.PixelCountIsExact :=
  ⟨fun s => ⟨rfl, pixelCountOf_lt s.width s.height⟩, rfl⟩

/-! ### The host's turn -/

theorem hostStep_nil {s : State} (h : s.hostq = []) : hostStep s = .next s := by
  simp [hostStep, h]

theorem hostStep_cons {s : State} {c : HostCmd} {q : List HostCmd} (h : s.hostq = c :: q) :
    hostStep s = .next (hostAct c { s with hostq := q }) := by
  simp [hostStep, h]

/-- The host's turn changes nothing or takes the oldest command. -/
theorem hostStep_cases {s t : State} (h : hostStep s = .next t) :
    t = s ∨ ∃ c q, s.hostq = c :: q ∧ t = hostAct c { s with hostq := q } := by
  cases hq : s.hostq with
  | nil =>
    rw [hostStep_nil hq] at h
    cases h
    exact .inl rfl
  | cons c q =>
    rw [hostStep_cons hq] at h
    cases h
    exact .inr ⟨c, q, rfl, rfl⟩

@[simp] theorem hostAct_cfg (c : HostCmd) (s : State) : (hostAct c s).cfg = s.cfg := by
  cases c with
  | start m => exact State.startPass_cfg m s
  | _ => rfl

/-- A command is START, which begins its pass, or leaves STATUS alone. -/
theorem hostAct_status (c : HostCmd) (s : State) :
    (hostAct c s).status = s.status ∨
      ∃ m, c = .start m ∧ (hostAct c s).status = .busy ∧ (hostAct c s).mode = m := by
  cases c with
  | start m => exact .inr ⟨m, rfl, State.startPass_status m s, State.startPass_mode m s⟩
  | _ => exact .inl rfl

/-- Settles O47: an idle block takes its step from the host's queue. -/
theorem resetIsIdle : Obligations.ResetIsIdle := by
  refine ⟨rfl, rfl, fun s hidle => ?_⟩
  have hstep : step s = hostStep s := step_not_busy (by simp [hidle])
  refine ⟨fun hq => hstep.trans (hostStep_nil hq), ?_⟩
  cases hq : s.hostq with
  | nil => exact ⟨s, hstep.trans (hostStep_nil hq), .inl hidle⟩
  | cons c q =>
    refine ⟨_, hstep.trans (hostStep_cons hq), ?_⟩
    obtain hsame | ⟨m, rfl, hbusy, hmode⟩ := hostAct_status c { s with hostq := q }
    · exact .inl (hsame.trans hidle)
    · exact .inr ⟨m, q, rfl, hbusy, hmode⟩

/-! ### A step of a running pass -/

/-- The next states a running pass can have: a fault, the stream after the framing (either mode), one
encoded pixel, one executed opcode, or the successful end (either mode); each success with the guards
its legality rests on. -/
inductive PassStep (s : State) : State → Prop
  | raise (c : FaultCause) : PassStep s (s.raise c)
  | badEndMarker (h : Header) (hmode : s.mode = .decode) (hphase : s.phase = .framing) :
      PassStep s ((s.setHeader h).raise .badEndMarker)
  | frameEncode {hdr : List Byte} (hmode : s.mode = .encode) (hphase : s.phase = .framing)
      (hhdr : encodeHeader s.cfg s.header = .ok hdr) (hlen : s.pixLen = s.pixelCount) :
      PassStep s { s.emit hdr with phase := .stream }
  | frameDecode {hb : List Byte} {h : Header} (hmode : s.mode = .decode) (hphase : s.phase = .framing)
      (hlen : Config.headerLen + s.cfg.endLen ≤ s.inLen) (hhdr : decodeHeader s.cfg hb = .ok h) :
      PassStep s { s.setHeader h with phase := .stream }
  | encodePixel {p : Pixel} {r : List Instr × EncRegs} {bs : List Byte} (hs : s.Encoding)
      (hpxi : s.pxi < s.pixelCount) (hread : s.pixMem.readPixel s.pxi = some p)
      (hr : encodePixel s.cfg (s.pxi + 1 == s.pixelCount) p s.encRegs = r)
      (hpack : packAll r.1 = .ok bs) :
      PassStep s ((s.emit bs).setEncRegs r.2).nextPixel
  | closeEncode (hs : s.Encoding) (hpxi : ¬ s.pxi < s.pixelCount) :
      PassStep s { (s.emit s.cfg.endMarker).finish with optr := (s.emit s.cfg.endMarker).optr }
  | execOpcode {i : Instr} (hs : s.Decoding) (hpxo : s.pxo ≠ s.pixelCount) (hfetch : s.fetch = .opcode i)
      (hfit : ∀ n, i = .run n → s.pxo + n ≤ s.pixelCount) :
      PassStep s (s.completeOpcode i.length (opcodePixel i ⟨s.prev, s.cache⟩) (opcodeCount i))
  | finishDecode (hs : s.Decoding) (hpxo : s.pxo = s.pixelCount) (hiptr : s.iptr = s.streamLen) :
      PassStep s s.finish

theorem encodeFraming_next {s t : State} (hmode : s.mode = .encode) (hphase : s.phase = .framing)
    (h : encodeFraming s = .next t) : PassStep s t := by
  unfold encodeFraming at h
  split at h
  · cases h
    exact .raise _
  · rename_i hdr hhdr
    split_ifs at h with hcap hlen
    · cases h
      exact .raise _
    · cases h
      exact .frameEncode hmode hphase hhdr (not_not.mp hlen)

theorem encoderStep_next {s t : State} (hs : s.Encoding) (hpxi : s.pxi < s.pixelCount)
    (h : encoderStep s = .next t) : PassStep s t := by
  unfold encoderStep at h
  split at h
  · cases h
  · rename_i p hread
    dsimp only at h
    split at h
    · cases h
    · rename_i bs hpack
      cases h
      exact .encodePixel hs hpxi hread rfl hpack

theorem decodeFraming_next {s t : State} (hmode : s.mode = .decode) (hphase : s.phase = .framing)
    (h : decodeFraming s = .next t) : PassStep s t := by
  unfold decodeFraming at h
  split at h
  · cases h
    exact .raise _
  rename_i hlen
  split at h
  · cases h
  split at h
  · cases h
    exact .raise _
  rename_i hdr hhdr
  split at h
  · cases h
  split at h
  · cases h
  split at h
  · cases h
    exact .badEndMarker hdr hmode hphase
  · cases h
    exact .frameDecode hmode hphase (Nat.not_lt.mp hlen) hhdr

/-- A fetched opcode is completed, or is a RUN past the pixel count (R188). -/
theorem exec_fetched_next {s t : State} {i : Instr} (hs : s.Decoding) (hpxo : s.pxo ≠ s.pixelCount)
    (hfetch : s.fetch = .opcode i) (h : exec i s = .next t) : PassStep s t := by
  by_cases hfit : ∀ n, i = .run n → s.pxo + n ≤ s.pixelCount
  · rw [exec_completes i s hfit] at h
    cases h
    exact .execOpcode hs hpxo hfetch hfit
  · push Not at hfit
    obtain ⟨n, rfl, hover⟩ := hfit
    rw [exec_run_overrun n s hover] at h
    cases h
    exact .raise _

theorem decoderStep_next {s t : State} (hs : s.Decoding) (h : decoderStep s = .next t) :
    PassStep s t := by
  unfold decoderStep at h
  split_ifs at h with hpxo hiptr
  · cases h
    exact .finishDecode hs hpxo hiptr
  · cases h
    exact .raise _
  · split at h
    · exact exec_fetched_next hs hpxo ‹_› h
    · cases h
      exact .raise _
    · cases h
    · cases h

/-- The inversion of a step while a pass runs. -/
theorem step_busy {s t : State} (hbusy : s.status = .busy) (h : step s = .next t) : PassStep s t := by
  cases hmode : s.mode with
  | encode =>
    cases hphase : s.phase with
    | framing => exact encodeFraming_next hmode hphase (step_encode_framing hbusy hmode hphase ▸ h)
    | stream =>
      have hs : s.Encoding := ⟨hbusy, hmode, hphase⟩
      rw [step_encoding hs] at h
      split_ifs at h with hpxi
      · exact encoderStep_next hs hpxi h
      · cases h
        exact .closeEncode hs hpxi
  | decode =>
    cases hphase : s.phase with
    | framing => exact decodeFraming_next hmode hphase (step_decode_framing hbusy hmode hphase ▸ h)
    | stream =>
      have hs : s.Decoding := ⟨hbusy, hmode, hphase⟩
      exact decoderStep_next hs (step_decoding hs ▸ h)

/-! ### What a pass leaves alone -/

/-- A running pass leaves alone the parameters, IN, L, the host's commands and MODE (R34, R52, R265). -/
theorem PassStep.keeps_input {s t : State} (h : PassStep s t) :
    t.cfg = s.cfg ∧ t.inMem = s.inMem ∧ t.inLen = s.inLen ∧ t.hostq = s.hostq ∧ t.mode = s.mode := by
  cases h <;> simp

/-- An encode pass leaves PIX and the header registers alone (R50, R63). -/
theorem PassStep.encode_keeps_pixels {s t : State} (h : PassStep s t) (hmode : s.mode = .encode) :
    t.pixMem = s.pixMem ∧ t.header = s.header := by
  cases h with
  | raise c =>
    obtain ⟨_, hpix, _, hheader⟩ := s.raise_encode c hmode
    exact ⟨hpix, hheader⟩
  | frameEncode | encodePixel | closeEncode => exact ⟨rfl, rfl⟩
  | badEndMarker _ hdec | frameDecode hdec => cases hmode.symm.trans hdec
  | execOpcode hs | finishDecode hs => cases hmode.symm.trans hs.2.1

/-- A decode pass does not use OUT (R50). -/
theorem PassStep.decode_keeps_output {s t : State} (h : PassStep s t) (hmode : s.mode = .decode) :
    t.outMem = s.outMem := by
  cases h with
  | raise c => exact (s.raise_decode c hmode).1
  | badEndMarker hdr => exact ((s.setHeader hdr).raise_decode .badEndMarker hmode).1
  | frameDecode | finishDecode => rfl
  | execOpcode => simp
  | frameEncode henc => cases hmode.symm.trans henc
  | encodePixel hs | closeEncode hs => cases hmode.symm.trans hs.2.1

/-- Settles O51, by the cases of a running pass and of the host's turn. -/
theorem passesNeverWriteTheirInput : Obligations.PassesNeverWriteTheirInput := by
  intro s t h
  by_cases hbusy : s.status = .busy
  · have hpass := step_busy hbusy h
    obtain ⟨hcfg, hin, hlen, hq, hmode⟩ := hpass.keeps_input
    exact ⟨hcfg, fun _ => ⟨hin, hlen, hq, hmode, hpass.encode_keeps_pixels, hpass.decode_keeps_output⟩⟩
  · refine ⟨?_, fun hb => absurd hb hbusy⟩
    rw [step_not_busy hbusy] at h
    obtain rfl | ⟨c, q, _, rfl⟩ := hostStep_cases h
    · rfl
    · exact hostAct_cfg c _

end Sys2Proof.Machine
end

section
/-! PROOFS. Every step keeps a legal state legal: what each operation does to the buffers, to the cache
and to the stream's bounds, then one case for each way a step can go (`PassStep`, `hostStep_cases`). -/

namespace Sys2Proof.Machine

/-! ### Buffers that hold exactly their bytes -/

theorem Memory.holdsExactly_nil : Memory.HoldsExactly [] 0 := fun _ => by simp

theorem Memory.holdsExactly_ofBytes (bs : List Byte) : (Memory.ofBytes bs).HoldsExactly bs.length :=
  fun a => by rw [Memory.read_ofBytes, Bool.eq_iff_iff]; simp

theorem Memory.holdsExactly_ofPixels (ps : List Pixel) :
    (Memory.ofPixels ps).HoldsExactly (4 * ps.length) :=
  flatMap_pixelBytes_length ps ▸ Memory.holdsExactly_ofBytes _

/-- Bytes written at the end of a buffer extend what it holds. -/
theorem Memory.HoldsExactly.append {m : Memory} {n : Nat} (h : m.HoldsExactly n) (bs : List Byte) :
    (m.writeBytes n bs).HoldsExactly (n + bs.length) := by
  intro a
  rw [Memory.read_writeBytes]
  split_ifs with hin
  · have hlt : a - n < bs.length := by omega
    simp [hlt, hin.2]
  · rw [h a]
    exact decide_eq_decide.mpr (by omega)

theorem Memory.HoldsExactly.appendPixel {m : Memory} {n : Nat} (h : m.HoldsExactly (4 * n)) (p : Pixel) :
    (m.writePixel n p).HoldsExactly (4 * (n + 1)) :=
  h.append (pixelBytes p)

theorem State.produceN_holdsExactly (p : Pixel) (n : Nat) (s : State)
    (h : s.pixMem.HoldsExactly (4 * s.pxo)) :
    (s.produceN p n).pixMem.HoldsExactly (4 * (s.pxo + n)) := by
  induction n generalizing s with
  | zero => exact h
  | succ n ih =>
    have hrest := ih (s.produce p) (h.appendPixel p)
    rw [State.produce_pxo, Nat.add_assoc, Nat.add_comm 1 n] at hrest
    exact hrest

/-! ### The cache -/

theorem cacheLegal_start : CacheLegal (Vector.replicate 64 Config.zeroPixel) :=
  fun k => .inl (by simp)

/-- A store puts the pixel in the slot of its hash (R121). -/
theorem CacheLegal.store {x : Cache} (h : CacheLegal x) (p : Pixel) : CacheLegal (cacheStore x p) := by
  intro k
  by_cases hk : pixelHash p = k
  · subst hk
    exact .inr (by simp [cacheStore])
  · have hne : (pixelHash p).val ≠ k.val := fun he => hk (Fin.ext he)
    have hsame : (cacheStore x p)[k] = x[k] := by simp [cacheStore, hne]
    rw [hsame]
    exact h k

theorem CacheLegal.after {x : Cache} (h : CacheLegal x) (p : Pixel) : CacheLegal (cacheAfter x p) := by
  unfold cacheAfter
  split
  · exact h
  · exact h.store p

/-! ### The header -/

/-- The encode-side tests pass a legal header only, and answer 14 bytes (R82, R100). -/
theorem encodeHeader_ok {cfg : Config.Params} {h : Header} {hdr : List Byte}
    (hok : encodeHeader cfg h = .ok hdr) : h.legal = true ∧ hdr.length = Config.headerLen := by
  unfold encodeHeader at hok
  split_ifs at hok with hch hcs hdim
  cases hok
  exact ⟨by simp_all [Header.legal], by simp [be32]⟩

/-- The decode-side tests pass a legal header only (R102). -/
theorem decodeHeader_ok_legal {cfg : Config.Params} {hb : List Byte} {h : Header}
    (hok : decodeHeader cfg hb = .ok h) : h.legal = true := by
  unfold decodeHeader at hok
  split at hok
  · split_ifs at hok with hmagic hch hcs hdim
    cases hok
    simp_all [Header.legal]
  · cases hok

/-! ### Opcode lengths and counts -/

theorem instr_length_le (i : Instr) : i.length ≤ 5 := by
  cases i <;> simp [Instr.length]

theorem encode_length (i : Instr) : (encode i).length = i.length := by
  cases i <;> rfl

/-- The packers answer nothing but the encoding (R130). -/
theorem pack_ok_eq {i : Instr} {bs : List Byte} (h : pack i = .ok bs) : bs = encode i := by
  unfold pack at h
  split_ifs at h
  cases h
  rfl

/-- Packed opcodes are as long as their formats say, together (R77). -/
theorem packAll_ok_length {is : List Instr} {bs : List Byte} (h : packAll is = .ok bs) :
    bs.length = (is.map Instr.length).sum := by
  induction is generalizing bs with
  | nil =>
    cases h
    rfl
  | cons i is ih =>
    unfold packAll at h
    split at h
    · rename_i hd tl hhd htl
      cases h
      simp [pack_ok_eq hhd, encode_length, ih htl]
    · cases h
    · cases h

/-- A decoded opcode produces a pixel: a RUN's count is never 0 (R76). -/
theorem decode_opcodeCount_pos {bs rest : List Byte} {i : Instr} (h : decode bs = .ok (i, rest)) :
    0 < opcodeCount i := by
  cases bs with
  | nil => cases h
  | cons b0 more =>
    dsimp only [decode] at h
    split_ifs at h with hrgb hrgba
    · split at h <;> cases h
      exact Nat.one_pos
    · split at h <;> cases h
      exact Nat.one_pos
    · split at h
      · cases h
        exact Nat.one_pos
      · cases h
        exact Nat.one_pos
      · split at h <;> cases h
        exact Nat.one_pos
      · cases h
        exact Nat.succ_pos _

/-- Below N there is room for the pixels of any opcode but an overlong RUN (R188). -/
theorem opcodeCount_fits {s : State} {i : Instr} (hpxo : s.pxo < s.pixelCount)
    (hfit : ∀ n, i = .run n → s.pxo + n ≤ s.pixelCount) : s.pxo + opcodeCount i ≤ s.pixelCount := by
  cases i with
  | run n => exact hfit n rfl
  | _ => exact hpxo

/-! ### One pixel of the encoder -/

/-- A flushed run is one byte, paid for by the pixels it counts (R153). -/
theorem flushRun_length_le (run : BitVec 6) : ((flushRun run).map Instr.length).sum ≤ run.toNat := by
  unfold flushRun
  split_ifs with hzero
  · exact Nat.zero_le _
  · exact Nat.pos_of_ne_zero fun h => hzero (BitVec.eq_of_toNat_eq h)

/-- The three ways of a pixel: it ends a run, lengthens one, or has an opcode of its own (R151 to R160). -/
theorem encodePixel_cases (cfg : Config.Params) (last : Bool) (p : Pixel) (e : EncRegs) :
    (runEnds (e.run.toNat + 1) last = true ∧
      encodePixel cfg last p e = ([.run (e.run.toNat + 1)], { e with run := 0 })) ∨
    (runEnds (e.run.toNat + 1) last = false ∧
      encodePixel cfg last p e = ([], { e with run := BitVec.ofNat 6 (e.run.toNat + 1) })) ∨
    encodePixel cfg last p e = (flushRun e.run ++ [selectOpcode cfg e.prev e.cache p],
      { prev := p, cache := cacheAfter e.cache p, run := 0 }) := by
  unfold encodePixel
  by_cases hrep : repeatsPrev e.prev p = true
  · cases hends : runEnds (e.run.toNat + 1) last <;> simp [hrep, hends]
  · simp [hrep]

/-- One pixel keeps RUNCNT at most 61 and the cache legal, leaves no run pending after the last pixel,
and costs at most five bytes, a pending run not yet paid for (R23, R121, R161, R165). -/
theorem encodePixel_legal {cfg : Config.Params} {last : Bool} {p : Pixel} {e : EncRegs}
    {r : List Instr × EncRegs} (hr : encodePixel cfg last p e = r) (hrun : e.run.toNat ≤ 61)
    (hcache : CacheLegal e.cache) :
    CacheLegal r.2.cache ∧ r.2.run.toNat ≤ 61 ∧ (last = true → r.2.run = 0) ∧
      (r.1.map Instr.length).sum + r.2.run.toNat ≤ e.run.toNat + 5 := by
  subst hr
  obtain ⟨-, heq⟩ | ⟨hgoes, heq⟩ | heq := encodePixel_cases cfg last p e
  · rw [heq]
    refine ⟨hcache, Nat.zero_le _, fun _ => rfl, ?_⟩
    simp [Instr.length]
  · obtain ⟨hmax, hlast⟩ : e.run.toNat + 1 ≠ 62 ∧ last = false := by
      simpa [runEnds, Config.runMax] using hgoes
    have hcount : (BitVec.ofNat 6 (e.run.toNat + 1)).toNat = e.run.toNat + 1 := by
      rw [BitVec.toNat_ofNat]
      omega
    rw [heq]
    refine ⟨hcache, ?_, fun h => absurd (hlast.symm.trans h) Bool.false_ne_true, ?_⟩
    · dsimp only
      omega
    · simp only [List.map_nil, List.sum_nil]
      omega
  · have hflush := flushRun_length_le e.run
    have hop := instr_length_le (selectOpcode cfg e.prev e.cache p)
    rw [heq]
    refine ⟨hcache.after p, Nat.zero_le _, fun _ => rfl, ?_⟩
    have hsum : ((flushRun e.run).map Instr.length).sum +
        (selectOpcode cfg e.prev e.cache p).length ≤ e.run.toNat + 5 := by omega
    simpa using hsum

/-! ### Legal states, by what runs in them -/

/-- What a legal state asks of the parameters and the buffers, whatever runs. -/
def State.BuffersLegal (s : State) : Prop :=
  s.cfg.wf = true ∧ s.inMem.wf = true ∧ s.outMem.wf = true ∧ s.pixMem.wf = true ∧
    s.inMem.HoldsExactly s.inLen ∧ s.pixMem.HoldsExactly (4 * s.pixLen)

/-- The fault registers are not valid (R31). -/
def State.FaultRegsClear (s : State) : Prop := s.fcause = none ∧ s.fclass = none

theorem State.Inv.buffers {s : State} (h : s.Inv) : s.BuffersLegal :=
  ⟨h.params, h.inWf, h.outWf, h.pixWf, h.inHeld, h.pixHeld⟩

section Kinds

variable {t : State} (hbuf : t.BuffersLegal)
include hbuf

/-- Legal while no pass runs: OUT holds a finished encode pass's bytes, a fault has its cause. -/
theorem State.BuffersLegal.inv_of_not_busy (hbusy : t.status ≠ .busy)
    (hout : t.status = .done → t.mode = .encode → t.outMem.HoldsExactly t.optr)
    (hfault : t.status = .fault → ∃ c, t.fcause = some c ∧ t.fclass = some c.faultClass) : t.Inv := by
  obtain ⟨hcfg, hin, hob, hpix, hinHeld, hpixHeld⟩ := hbuf
  exact {
    params := hcfg, inWf := hin, outWf := hob, pixWf := hpix, inHeld := hinHeld, pixHeld := hpixHeld
    outHeld := fun h => h.elim (absurd · hbusy) hout
    faultRegs := ⟨hfault, (absurd · hbusy)⟩
    cacheLegal := (absurd · hbusy)
    framing := (absurd · hbusy)
    decodeFresh := (absurd · hbusy)
    encodeStream := (absurd · hbusy)
    decodeStream := (absurd · hbusy) }

/-- Legal at the framing of a pass. -/
theorem State.BuffersLegal.inv_of_framing (hbusy : t.status = .busy) (hphase : t.phase = .framing)
    (hclear : t.FaultRegsClear) (hstart : t.AtStart)
    (hout : t.mode = .encode → t.outMem.HoldsExactly t.optr)
    (hfresh : t.mode = .decode → t.pixLen = 0) : t.Inv := by
  obtain ⟨hcfg, hin, hob, hpix, hinHeld, hpixHeld⟩ := hbuf
  obtain ⟨-, hcache, -⟩ := id hstart
  exact {
    params := hcfg, inWf := hin, outWf := hob, pixWf := hpix, inHeld := hinHeld, pixHeld := hpixHeld
    outHeld := fun _ => hout
    cacheLegal := fun _ => hcache ▸ cacheLegal_start
    faultRegs := ⟨by simp [hbusy], fun _ => hclear⟩
    framing := fun _ _ => hstart
    decodeFresh := fun _ _ => hfresh
    encodeStream := by simp [hphase]
    decodeStream := by simp [hphase] }

/-- Legal in the opcode stream of an encode pass. -/
theorem State.BuffersLegal.inv_of_encoding (ht : t.Encoding) (hclear : t.FaultRegsClear)
    (hcache : CacheLegal t.cache) (hout : t.outMem.HoldsExactly t.optr)
    (hstream : t.EncodeStreamLegal) : t.Inv := by
  obtain ⟨hcfg, hin, hob, hpix, hinHeld, hpixHeld⟩ := hbuf
  obtain ⟨hbusy, hmode, hphase⟩ := ht
  exact {
    params := hcfg, inWf := hin, outWf := hob, pixWf := hpix, inHeld := hinHeld, pixHeld := hpixHeld
    outHeld := fun _ _ => hout
    cacheLegal := fun _ => hcache
    faultRegs := ⟨by simp [hbusy], fun _ => hclear⟩
    framing := by simp [hphase]
    decodeFresh := by simp [hphase]
    encodeStream := fun _ _ _ => hstream
    decodeStream := by simp [hmode] }

/-- Legal in the opcode stream of a decode pass. -/
theorem State.BuffersLegal.inv_of_decoding (ht : t.Decoding) (hclear : t.FaultRegsClear)
    (hcache : CacheLegal t.cache) (hstream : t.DecodeStreamLegal) : t.Inv := by
  obtain ⟨hcfg, hin, hob, hpix, hinHeld, hpixHeld⟩ := hbuf
  obtain ⟨hbusy, hmode, hphase⟩ := ht
  exact {
    params := hcfg, inWf := hin, outWf := hob, pixWf := hpix, inHeld := hinHeld, pixHeld := hpixHeld
    outHeld := by simp [hmode]
    cacheLegal := fun _ => hcache
    faultRegs := ⟨by simp [hbusy], fun _ => hclear⟩
    framing := by simp [hphase]
    decodeFresh := by simp [hphase]
    encodeStream := by simp [hmode]
    decodeStream := fun _ _ _ => hstream }

end Kinds

/-! ### The operations of a step -/

theorem State.BuffersLegal.emit {s : State} (h : s.BuffersLegal) (bs : List Byte) :
    (s.emit bs).BuffersLegal := by
  obtain ⟨hcfg, hin, hout, hpix, hinHeld, hpixHeld⟩ := h
  exact ⟨hcfg, hin, Memory.wf_writeBytes _ bs hout, hpix, hinHeld, hpixHeld⟩

theorem State.BuffersLegal.completeOpcode {s : State} (h : s.BuffersLegal) (hlen : s.pixLen = s.pxo)
    (len : Nat) (p : Pixel) {n : Nat} (hn : 0 < n) : (s.completeOpcode len p n).BuffersLegal := by
  obtain ⟨hcfg, hin, hout, hpix, hinHeld, hpixHeld⟩ := h
  have hheld := State.produceN_holdsExactly p n s (hlen ▸ hpixHeld)
  simp only [State.BuffersLegal, State.completeOpcode_cfg, State.completeOpcode_inMem,
    State.completeOpcode_outMem, State.completeOpcode_pixMem, State.completeOpcode_inLen,
    State.completeOpcode_pixLen, State.produceN_pixLen p n s hn]
  exact ⟨hcfg, hin, hout, State.produceN_wf p n s hpix, hinHeld, hheld⟩

/-- A fault empties the pass's own output buffer and leaves the others (R237). -/
theorem State.BuffersLegal.raise {s : State} (h : s.BuffersLegal) (c : FaultCause) :
    (s.raise c).BuffersLegal := by
  obtain ⟨hcfg, hin, hout, hpix, hinHeld, hpixHeld⟩ := h
  unfold State.BuffersLegal
  cases hmode : s.mode with
  | encode =>
    obtain ⟨ho, hp, hl, -⟩ := s.raise_encode c hmode
    rw [ho, hp, hl, State.raise_cfg, State.raise_inMem, State.raise_inLen]
    exact ⟨hcfg, hin, Memory.wf_nil, hpix, hinHeld, hpixHeld⟩
  | decode =>
    obtain ⟨ho, hp, hl⟩ := s.raise_decode c hmode
    rw [ho, hp, hl, State.raise_cfg, State.raise_inMem, State.raise_inLen]
    exact ⟨hcfg, hin, hout, Memory.wf_nil, hinHeld, Memory.holdsExactly_nil⟩

/-- A fault leaves a legal state, from any buffers that are legal (R31, R236). -/
theorem State.BuffersLegal.inv_raise {s : State} (h : s.BuffersLegal) (c : FaultCause) :
    (s.raise c).Inv :=
  (h.raise c).inv_of_not_busy (by simp) (by simp) (fun _ => ⟨c, by simp, by simp⟩)

/-- START leaves a legal state (R261). -/
theorem State.BuffersLegal.inv_startPass {s : State} (h : s.BuffersLegal) (m : Mode) :
    (s.startPass m).Inv := by
  obtain ⟨hcfg, hin, hout, hpix, hinHeld, hpixHeld⟩ := h
  have hstart : (s.startPass m).AtStart := by simp [State.AtStart]
  cases m with
  | encode =>
    have hbuf : (s.startPass .encode).BuffersLegal :=
      ⟨hcfg, hin, Memory.wf_nil, hpix, hinHeld, hpixHeld⟩
    exact hbuf.inv_of_framing rfl rfl ⟨rfl, rfl⟩ hstart (fun _ => Memory.holdsExactly_nil) nofun
  | decode =>
    have hbuf : (s.startPass .decode).BuffersLegal :=
      ⟨hcfg, hin, hout, Memory.wf_nil, hinHeld, Memory.holdsExactly_nil⟩
    exact hbuf.inv_of_framing rfl rfl ⟨rfl, rfl⟩ hstart nofun fun _ => rfl

/-! ### The step -/

/-- A host command, taken while no pass runs, leaves a legal state (R263). -/
theorem State.Inv.hostAct {s : State} (h : s.Inv) (hbusy : s.status ≠ .busy) (c : HostCmd)
    (q : List HostCmd) : (hostAct c { s with hostq := q }).Inv := by
  obtain ⟨hcfg, hin, hout, hpix, hinHeld, hpixHeld⟩ := h.buffers
  have hdone : s.status = .done → s.mode = .encode → s.outMem.HoldsExactly s.optr := h.outHeld ∘ .inr
  cases c with
  | writeHeader w ht ch cs => exact State.BuffersLegal.inv_of_not_busy h.buffers hbusy hdone h.faultRegs.1
  | placePixels ps =>
    exact State.BuffersLegal.inv_of_not_busy
      ⟨hcfg, hin, hout, Memory.wf_ofPixels ps, hinHeld, Memory.holdsExactly_ofPixels ps⟩
      hbusy hdone h.faultRegs.1
  | placeInput bs =>
    exact State.BuffersLegal.inv_of_not_busy
      ⟨hcfg, Memory.wf_ofBytes bs, hout, hpix, Memory.holdsExactly_ofBytes bs, hpixHeld⟩
      hbusy hdone h.faultRegs.1
  | start m => exact State.BuffersLegal.inv_startPass (s := { s with hostq := q }) h.buffers m

/-- The framing of an encode pass writes the header at the start of OUT (R210). -/
theorem State.Inv.frameEncode {s : State} {hdr : List Byte} (h : s.Inv) (hbusy : s.status = .busy)
    (hmode : s.mode = .encode) (hphase : s.phase = .framing)
    (hhdr : encodeHeader s.cfg s.header = .ok hdr) (hlen : s.pixLen = s.pixelCount) :
    State.Inv { s.emit hdr with phase := .stream } := by
  obtain ⟨hlegal, hhdrLen⟩ := encodeHeader_ok hhdr
  obtain ⟨-, -, hrun, hpxi, hoptr, -, -⟩ := h.framing hbusy hphase
  refine State.BuffersLegal.inv_of_encoding (h.buffers.emit hdr) ⟨hbusy, hmode, rfl⟩ (h.faultRegs.2 hbusy)
    (h.cacheLegal hbusy) ((h.outHeld (.inl hbusy) hmode).append hdr)
    ⟨hlegal, hlen, ?_, ?_, fun _ => hrun, ?_, ?_⟩ <;>
  simp [hrun, hpxi, hoptr, hhdrLen]

/-- The framing of a decode pass accepts a legal header of a long enough container (R211). -/
theorem State.Inv.frameDecode {s : State} {hb : List Byte} {hdr : Header} (h : s.Inv)
    (hbusy : s.status = .busy) (hmode : s.mode = .decode) (hphase : s.phase = .framing)
    (hlen : Config.headerLen + s.cfg.endLen ≤ s.inLen) (hhdr : decodeHeader s.cfg hb = .ok hdr) :
    State.Inv { s.setHeader hdr with phase := .stream } := by
  obtain ⟨-, -, -, -, -, hiptr, hpxo⟩ := h.framing hbusy hphase
  have hfresh := h.decodeFresh hbusy hphase hmode
  refine State.BuffersLegal.inv_of_decoding h.buffers ⟨hbusy, hmode, rfl⟩
    (h.faultRegs.2 hbusy) (h.cacheLegal hbusy) ⟨decodeHeader_ok_legal hhdr, hlen, ?_, ?_, ?_⟩ <;>
  simp [hiptr, hpxo, hfresh]

/-- One pixel of an encode pass stays within the stream's bounds (R23, R161, R165). -/
theorem State.Inv.encodePixel {s : State} {p : Pixel} {r : List Instr × EncRegs} {bs : List Byte}
    (h : s.Inv) (hs : s.Encoding) (hlt : s.pxi < s.pixelCount)
    (hr : encodePixel s.cfg (s.pxi + 1 == s.pixelCount) p s.encRegs = r)
    (hpack : packAll r.1 = .ok bs) : ((s.emit bs).setEncRegs r.2).nextPixel.Inv := by
  obtain ⟨hbusy, hmode, hphase⟩ := id hs
  obtain ⟨hlegal, hlen, -, hrun, -, hlow, hhigh⟩ := h.encodeStream hbusy hphase hmode
  obtain ⟨hcache, hrun', hlast, hops⟩ := encodePixel_legal hr hrun (h.cacheLegal hbusy)
  have hcost : bs.length + r.2.run.toNat ≤ s.runCount.toNat + 5 := packAll_ok_length hpack ▸ hops
  refine State.BuffersLegal.inv_of_encoding (h.buffers.emit bs) hs (h.faultRegs.2 hbusy) hcache
    ((h.outHeld (.inl hbusy) hmode).append bs)
    ⟨hlegal, hlen, hlt, hrun', fun hend => hlast (beq_iff_eq.mpr hend), Nat.le_add_right_of_le hlow, ?_⟩
  simp only [State.nextPixel_optr, State.setEncRegs_optr, State.emit_optr, State.nextPixel_runCount,
    State.setEncRegs_runCount, State.nextPixel_pxi, State.setEncRegs_pxi, State.emit_pxi]
  omega

/-- The end marker ends OUT, and OPTR is its length (R27, R264). -/
theorem State.Inv.closeEncode {s : State} (h : s.Inv) (hs : s.Encoding) :
    State.Inv { (s.emit s.cfg.endMarker).finish with optr := (s.emit s.cfg.endMarker).optr } := by
  obtain ⟨hbusy, hmode, -⟩ := hs
  exact State.BuffersLegal.inv_of_not_busy (h.buffers.emit s.cfg.endMarker) nofun
    (fun _ _ => (h.outHeld (.inl hbusy) hmode).append s.cfg.endMarker) nofun

/-- An executed opcode stays within the stream and within N (R28, R182). -/
theorem State.Inv.execOpcode {s : State} {i : Instr} (h : s.Inv) (hs : s.Decoding)
    (hpxo : s.pxo ≠ s.pixelCount) (hfetch : s.fetch = .opcode i)
    (hfit : ∀ n, i = .run n → s.pxo + n ≤ s.pixelCount) :
    (s.completeOpcode i.length (opcodePixel i ⟨s.prev, s.cache⟩) (opcodeCount i)).Inv := by
  obtain ⟨hbusy, hmode, hphase⟩ := id hs
  obtain ⟨hlegal, hlong, -, hle, hlen⟩ := h.decodeStream hbusy hphase hmode
  obtain ⟨_, _, _, _, hinside, _, hdecode⟩ := State.fetch_opcode hfetch
  have hcount := decode_opcodeCount_pos hdecode
  have hroom := opcodeCount_fits (Nat.lt_of_le_of_ne hle hpxo) hfit
  refine (h.buffers.completeOpcode hlen _ _ hcount).inv_of_decoding ?_ ?_ ?_ ?_
  · simpa [State.Decoding] using hs
  · simpa [State.FaultRegsClear] using h.faultRegs.2 hbusy
  · simpa using (h.cacheLegal hbusy).store _
  · simpa [State.DecodeStreamLegal, State.header, State.pixelCount, State.streamLen,
      State.produceN_pixLen _ _ s hcount] using ⟨hlegal, hlong, hinside, hroom⟩

theorem State.Inv.finishDecode {s : State} (h : s.Inv) (hs : s.Decoding) : s.finish.Inv :=
  State.BuffersLegal.inv_of_not_busy (t := s.finish) h.buffers nofun
    (fun _ henc => nomatch henc.symm.trans hs.2.1) nofun

/-- A step of a running pass keeps a legal state legal. -/
theorem PassStep.keeps_inv {s t : State} (hstep : PassStep s t) (hbusy : s.status = .busy) (h : s.Inv) :
    t.Inv := by
  cases hstep with
  | raise c => exact h.buffers.inv_raise c
  | badEndMarker hdr => exact State.BuffersLegal.inv_raise (s := s.setHeader hdr) h.buffers _
  | frameEncode hmode hphase hhdr hlen => exact h.frameEncode hbusy hmode hphase hhdr hlen
  | frameDecode hmode hphase hlen hhdr => exact h.frameDecode hbusy hmode hphase hlen hhdr
  | encodePixel hs hpxi hread hr hpack => exact h.encodePixel hs hpxi hr hpack
  | closeEncode hs => exact h.closeEncode hs
  | execOpcode hs hpxo hfetch hfit => exact h.execOpcode hs hpxo hfetch hfit
  | finishDecode hs => exact h.finishDecode hs

/-- Settles O48: nothing runs at power-on, and every buffer is empty. -/
theorem resetIsLegal : Obligations.ResetIsLegal :=
  State.BuffersLegal.inv_of_not_busy
    ⟨rfl, Memory.wf_nil, Memory.wf_nil, Memory.wf_nil, Memory.holdsExactly_nil, Memory.holdsExactly_nil⟩
    nofun nofun nofun

/-- Settles O49: a running pass steps by one of the cases of `PassStep`, and otherwise the host acts or
nothing changes. -/
theorem stepKeepsLegality : Obligations.StepKeepsLegality := by
  intro s t h hstep
  by_cases hbusy : s.status = .busy
  · exact (step_busy hbusy hstep).keeps_inv hbusy h
  · rw [step_not_busy hbusy] at hstep
    obtain rfl | ⟨c, q, -, rfl⟩ := hostStep_cases hstep
    · exact h
    · exact h.hostAct hbusy c q

end Sys2Proof.Machine
end

section
/-! PROOFS. PIX is row-major: the index of a row and column has a unique inverse, and splitting a flat
sequence into rows and making a grid flat undo each other. -/

namespace Sys2Proof.Machine

/-- Every index below N is that of the row and column which division by W gives (R214). -/
theorem pixelIndex_div_mod (w : BitVec 32) (i : Nat) : pixelIndex w (i / w.toNat) (i % w.toNat) = i := by
  rw [pixelIndex, Nat.mul_comm]
  exact Nat.div_add_mod i w.toNat

/-- The rows of a split sequence, each at its offset (R214). -/
theorem splitRows_getElem? {w h : Nat} (ps : List Pixel) {y : Nat} (hy : y < h) :
    (splitRows w h ps)[y]? = some ((ps.drop (y * w)).take w) := by
  induction h generalizing ps y with
  | zero => exact absurd hy (Nat.not_lt_zero y)
  | succ h ih =>
    cases y with
    | zero => simp
    | succ y =>
      rw [splitRows_succ, List.getElem?_cons_succ, ih (ps.drop w) (Nat.lt_of_succ_lt_succ hy),
        List.drop_drop, Nat.succ_mul, Nat.add_comm w]

/-- Pixel `x` of row `y` of a split sequence is the sequence's pixel `y * w + x` (R214). -/
theorem splitRows_pixel {w h : Nat} (ps : List Pixel) {y x : Nat} (hy : y < h) (hx : x < w) :
    (splitRows w h ps)[y]?.bind (·[x]?) = ps[y * w + x]? := by
  rw [splitRows_getElem? ps hy, Option.bind_some, List.getElem?_take_of_lt hx, List.getElem?_drop]

theorem splitRows_row_length {w h : Nat} {ps : List Pixel} (hlen : ps.length = w * h) :
    ∀ row ∈ splitRows w h ps, row.length = w := by
  induction h generalizing ps with
  | zero => simp
  | succ h ih =>
    rw [Nat.mul_succ] at hlen
    rw [splitRows_succ, List.forall_mem_cons]
    exact ⟨by simp [hlen], ih (by simp [hlen])⟩

theorem splitRows_flatten {w h : Nat} {ps : List Pixel} (hlen : ps.length = w * h) :
    (splitRows w h ps).flatten = ps := by
  induction h generalizing ps with
  | zero => exact (List.eq_nil_of_length_eq_zero hlen).symm
  | succ h ih =>
    rw [Nat.mul_succ] at hlen
    rw [splitRows_succ, List.flatten_cons, ih (by simp [hlen]), List.take_append_drop]

theorem flatten_splitRows {w : Nat} {rows : List (List Pixel)} (hw : ∀ row ∈ rows, row.length = w) :
    splitRows w rows.length rows.flatten = rows := by
  induction rows with
  | nil => rfl
  | cons row rows ih =>
    obtain ⟨hrow, hrows⟩ := List.forall_mem_cons.mp hw
    rw [List.length_cons, List.flatten_cons, splitRows_succ, List.take_left' hrow,
      List.drop_left' hrow, ih hrows]

theorem flatten_length {w : Nat} {rows : List (List Pixel)} (hw : ∀ row ∈ rows, row.length = w) :
    rows.flatten.length = w * rows.length := by
  rw [List.length_flatten, List.map_congr_left hw, List.map_const', List.sum_replicate, smul_eq_mul,
    Nat.mul_comm]

theorem flattenGrid_ok {rows : List (List Pixel)} {w : Nat} (hw : ∀ row ∈ rows, row.length = w) :
    flattenGrid rows = .ok rows.flatten := if_pos (rectangular_of_lengths hw)

/-- In a rectangular grid any two rows have one length: that of the first row. -/
theorem rectangular_lengths_eq {rows : List (List Pixel)} (h : rectangular rows = true)
    {r1 r2 : List Pixel} (h1 : r1 ∈ rows) (h2 : r2 ∈ rows) : r1.length = r2.length := by
  have hfirst : ∀ row ∈ rows, row.length = (rows.headD []).length := by simpa [rectangular] using h
  rw [hfirst r1 h1, hfirst r2 h2]

theorem flattenGrid_notRectangular {rows : List (List Pixel)} {r1 r2 : List Pixel} (h1 : r1 ∈ rows)
    (h2 : r2 ∈ rows) (hne : r1.length ≠ r2.length) : flattenGrid rows = .error .notRectangular :=
  if_neg fun h => hne (rectangular_lengths_eq h h1 h2)

/-- Every index below N has one row below H and one column below W (R214). -/
theorem pixelIndex_row_column_unique {w h : BitVec 32} {i : Nat} (hi : i < pixelCountOf w h) :
    ∃ y x, y < h.toNat ∧ x < w.toNat ∧ pixelIndex w y x = i ∧
      ∀ y' x', x' < w.toNat → pixelIndex w y' x' = i → y' = y ∧ x' = x := by
  have hw : 0 < w.toNat := Nat.pos_of_mul_pos_right (Nat.zero_lt_of_lt hi)
  refine ⟨i / w.toNat, i % w.toNat, Nat.div_lt_of_lt_mul hi, Nat.mod_lt i hw, pixelIndex_div_mod w i, ?_⟩
  rintro y' x' hx' rfl
  exact ⟨(pixelIndex_div y' hx').symm, (pixelIndex_mod y' hx').symm⟩

/-- Where PIX holds a sequence of N pixels, the grid's pixels are the sequence's (R53, R214). -/
theorem State.pixelAt_ofPixels {s : State} {ps : List Pixel} {y x : Nat}
    (hpix : s.pixMem = Memory.ofPixels ps) (hlen : ps.length = s.pixelCount) (hy : y < s.height.toNat)
    (hx : x < s.width.toNat) :
    ∃ p, s.pixelAt y x = some p ∧ ps[y * s.width.toNat + x]? = some p := by
  have hlt : pixelIndex s.width y x < ps.length := hlen ▸ pixelIndex_lt hy hx
  have hget := List.getElem?_eq_getElem hlt
  exact ⟨_, by rw [State.pixelAt_eq hy hx, hpix, Memory.readPixel_ofPixels ps _ _ hget], hget⟩

/-- Settles O55: division by W inverts the index, and splitting into rows and flattening are inverse. -/
theorem pixelBufferIsRowMajor : Obligations.PixelBufferIsRowMajor := by
  refine ⟨fun s i hi => pixelIndex_row_column_unique hi, fun s ps y x hpix hlen hy hx => ?_,
    fun w h rows hh hw => ?_, fun w h ps hlen => ?_,
    fun rows r1 r2 h1 h2 hne => flattenGrid_notRectangular h1 h2 hne⟩
  · obtain ⟨p, hat, hget⟩ := State.pixelAt_ofPixels hpix hlen hy hx
    exact ⟨p, hat, hget, (splitRows_pixel ps hy hx).trans hget⟩
  · subst hh
    exact ⟨rows.flatten, flattenGrid_ok hw, flatten_length hw, flatten_splitRows hw⟩
  · have hrows := splitRows_row_length hlen
    exact ⟨hrows, by rw [flattenGrid_ok hrows, splitRows_flatten hlen]⟩

end Sys2Proof.Machine
end

section
/-! PROOFS. OUT and PIX are append-only within a pass: each way a step of the stream can go writes at
the cursor or above it. -/

namespace Sys2Proof.Machine

/-- An encode pass's OUT grows at OPTR only, whatever step of its stream succeeds (R58). -/
theorem PassStep.encode_appends {s t : State} (h : PassStep s t) (hs : s.Encoding)
    (hok : t.status ≠ .fault) :
    ∃ bs, t.optr = s.optr + bs.length ∧ t.outMem = s.outMem.writeBytes s.optr bs := by
  obtain ⟨-, hmode, hphase⟩ := hs
  cases h with
  | raise c => exact absurd (State.raise_status c s) hok
  | @encodePixel _ _ bs => exact ⟨bs, rfl, rfl⟩
  | closeEncode => exact ⟨s.cfg.endMarker, rfl, rfl⟩
  | frameEncode _ hframing => cases hphase.symm.trans hframing
  | badEndMarker _ hdec | frameDecode hdec => cases hmode.symm.trans hdec
  | execOpcode hs | finishDecode hs => cases hmode.symm.trans hs.2.1

/-- A decode pass's PIX keeps the pixels below PXO, and PXO does not move back while the pass goes on
(R58). -/
theorem PassStep.decode_appends {s t : State} (h : PassStep s t) (hs : s.Decoding)
    (hok : t.status ≠ .fault) :
    (t.status = .busy → s.pxo ≤ t.pxo) ∧ ∀ a, a < 4 * s.pxo → t.pixMem.read a = s.pixMem.read a := by
  obtain ⟨-, hmode, hphase⟩ := hs
  cases h with
  | raise c => exact absurd (State.raise_status c s) hok
  | execOpcode =>
    exact ⟨fun _ => by simp, fun a ha => by simpa using State.produceN_read_outside _ _ s a (.inl ha)⟩
  | finishDecode => exact ⟨nofun, fun _ _ => rfl⟩
  | badEndMarker _ _ hframing | frameDecode _ hframing => cases hphase.symm.trans hframing
  | frameEncode henc => cases hmode.symm.trans henc
  | encodePixel hs | closeEncode hs => cases hmode.symm.trans hs.2.1

/-- Settles O52: the inversion of a running pass, in each mode. -/
theorem resultsAreAppendOnly : Obligations.ResultsAreAppendOnly := by
  intro s t hbusy hphase hstep hok
  have hpass := step_busy hbusy hstep
  refine ⟨fun hmode => ?_, fun hmode => hpass.decode_appends ⟨hbusy, hmode, hphase⟩ hok⟩
  obtain ⟨bs, hoptr, hout⟩ := hpass.encode_appends ⟨hbusy, hmode, hphase⟩ hok
  refine ⟨hoptr ▸ Nat.le_add_right _ _, fun a ha => ?_⟩
  rw [hout, Memory.read_writeBytes_outside _ _ _ _ (.inl ha)]

end Sys2Proof.Machine
end

section
/-! PROOFS. A legal state never sticks: every byte a step reads is written, every opcode the encoder
emits is in its packer's range, and every opcode fetched decodes. -/

namespace Sys2Proof.Machine

/-! ### Reads inside what a buffer holds -/

theorem Memory.HoldsExactly.read_some {m : Memory} {n a : Nat} (h : m.HoldsExactly n) (ha : a < n) :
    ∃ b, m.read a = some b :=
  Option.isSome_iff_exists.mp ((h a).trans (decide_eq_true ha))

theorem Memory.HoldsExactly.readBytes_some {m : Memory} {n a k : Nat} (h : m.HoldsExactly n)
    (hk : a + k ≤ n) : ∃ bs, m.readBytes a k = some bs := by
  induction k generalizing a with
  | zero => exact ⟨[], rfl⟩
  | succ k ih =>
    obtain ⟨b, hb⟩ := h.read_some (show a < n by omega)
    obtain ⟨bs, hbs⟩ := ih (show a + 1 + k ≤ n by omega)
    exact ⟨b :: bs, by simp [Memory.readBytes, hb, hbs]⟩

theorem Memory.HoldsExactly.readPixel_some {m : Memory} {n i : Nat} (h : m.HoldsExactly (4 * n))
    (hi : i < n) : ∃ p, m.readPixel i = some p := by
  obtain ⟨bs, hbs⟩ := h.readBytes_some (show 4 * i + 4 ≤ 4 * n by omega)
  match bs, Memory.readBytes_length hbs with
  | [r, g, b, a], _ => exact ⟨⟨r, g, b, a⟩, by simp [Memory.readPixel, hbs, pixelOfBytes]⟩

/-! ### The encoder's opcodes are in the packers' ranges -/

/-- The ordered tests pick DIFF and LUMA in their ranges only (R156, R157). -/
theorem selectOpcode_wf (cfg : Config.Params) (prev : Pixel) (cache : Cache) (p : Pixel) :
    (selectOpcode cfg prev cache p).wf = true := by
  unfold selectOpcode
  split_ifs with hhit halpha
  · rfl
  · dsimp only
    split_ifs with hdiff hluma
    · exact hdiff
    · exact hluma
    · rfl
  · rfl

theorem run_wf {n : Nat} (hlow : 1 ≤ n) (hhigh : n ≤ 62) : (Instr.run n).wf = true := by
  simp [Instr.wf, Config.runMax, hlow, hhigh]

theorem flushRun_wf {run : BitVec 6} (h : run.toNat ≤ 61) : ∀ i ∈ flushRun run, i.wf = true := by
  unfold flushRun
  split_ifs with hzero
  · simp
  · have hpos : 1 ≤ run.toNat := Nat.pos_of_ne_zero fun h => hzero (BitVec.eq_of_toNat_eq h)
    simpa using run_wf hpos (by omega)

/-- One pixel's opcodes are well formed where RUNCNT is at most 61 (R23, R152, R240). -/
theorem encodePixel_wf {cfg : Config.Params} {last : Bool} {p : Pixel} {e : EncRegs}
    (hrun : e.run.toNat ≤ 61) : ∀ i ∈ (encodePixel cfg last p e).1, i.wf = true := by
  obtain ⟨-, heq⟩ | ⟨-, heq⟩ | heq := encodePixel_cases cfg last p e <;> rw [heq]
  · simpa using run_wf (Nat.le_add_left 1 _) (Nat.succ_le_succ hrun)
  · simp
  · simpa [or_imp, forall_and, selectOpcode_wf] using flushRun_wf hrun

/-! ### What each kind of step answers -/

theorem encoderStep_next_of_legal {s : State} (h : s.Inv) (hs : s.Encoding) (hpxi : s.pxi < s.pixelCount) :
    ∃ t, encoderStep s = .next t := by
  obtain ⟨hbusy, hmode, hphase⟩ := hs
  obtain ⟨-, hlen, -, hrun, -, -, -⟩ := h.encodeStream hbusy hphase hmode
  obtain ⟨p, hp⟩ := h.pixHeld.readPixel_some (hlen ▸ hpxi)
  have hpack := packAll_ok (encodePixel_wf (cfg := s.cfg) (last := s.pxi + 1 == s.pixelCount) (p := p)
    (e := s.encRegs) hrun)
  unfold encoderStep
  simp only [hp, hpack]
  exact ⟨_, rfl⟩

/-- A fetch inside a stream whose bytes are written finds an opcode or the stream's end (R190). -/
theorem State.fetch_opcode_or_truncated {s : State} (hheld : s.inMem.HoldsExactly s.inLen)
    (hiptr : s.iptr ≤ s.streamLen) : (∃ i, s.fetch = .opcode i) ∨ s.fetch = .truncated := by
  have hnot := s.fetch_ne_undecoded
  have hinside : ∀ {k}, 0 < k → s.iptr + k ≤ s.streamLen → streamOffset s.iptr + k ≤ s.inLen := by
    intro k hk h
    unfold State.streamLen streamOffset at *
    omega
  unfold State.fetch at hnot ⊢
  split_ifs at hnot ⊢ with hend
  · exact .inr rfl
  obtain ⟨b0, hb0⟩ := hheld.read_some (a := streamOffset s.iptr) (hinside Nat.one_pos (by omega))
  simp only [hb0] at hnot ⊢
  split_ifs at hnot ⊢ with hcut
  · exact .inr rfl
  obtain ⟨bs, hbs⟩ := hheld.readBytes_some (hinside (oplen_pos b0) (Nat.not_lt.mp hcut))
  simp only [hbs] at hnot ⊢
  split at hnot
  · exact absurd rfl hnot
  · exact .inl ⟨_, rfl⟩

theorem decoderStep_next_of_legal {s : State} (h : s.Inv) (hs : s.Decoding) :
    ∃ t, decoderStep s = .next t := by
  obtain ⟨hbusy, hmode, hphase⟩ := hs
  obtain ⟨-, -, hiptr, -, -⟩ := h.decodeStream hbusy hphase hmode
  unfold decoderStep
  split_ifs with hpxo hend
  · exact ⟨_, rfl⟩
  · exact ⟨_, rfl⟩
  · obtain ⟨i, hi⟩ | hcut := State.fetch_opcode_or_truncated h.inHeld hiptr
    · rw [hi]
      exact exec_next i s
    · rw [hcut]
      exact ⟨_, rfl⟩

/-- The framing of an encode pass reads no buffer (R210). -/
theorem encodeFraming_answers (s : State) :
    (∃ t, encodeFraming s = .next t) ∨ encodeFraming s = .refused .capacity := by
  unfold encodeFraming
  split
  · exact .inl ⟨_, rfl⟩
  · split_ifs
    · exact .inr rfl
    · exact .inl ⟨_, rfl⟩
    · exact .inl ⟨_, rfl⟩

/-- The framing of a decode pass reads the header and the end marker of a container that it found long
enough for both (R211). -/
theorem decodeFraming_answers {s : State} (hheld : s.inMem.HoldsExactly s.inLen) :
    (∃ t, decodeFraming s = .next t) ∨ decodeFraming s = .refused .capacity := by
  unfold decodeFraming
  split_ifs with hshort
  · exact .inl ⟨_, rfl⟩
  obtain ⟨hb, hhb⟩ := hheld.readBytes_some (a := 0) (k := Config.headerLen) (by omega)
  obtain ⟨trl, htrl⟩ :=
    hheld.readBytes_some (a := s.inLen - s.cfg.endLen) (k := s.cfg.endLen) (by omega)
  simp only [hhb, htrl]
  split
  · exact .inl ⟨_, rfl⟩
  · split_ifs
    · exact .inr rfl
    · exact .inl ⟨_, rfl⟩
    · exact .inl ⟨_, rfl⟩

theorem hostStep_next (s : State) : ∃ t, hostStep s = .next t := by
  cases hq : s.hostq with
  | nil => exact ⟨_, hostStep_nil hq⟩
  | cons c q => exact ⟨_, hostStep_cons hq⟩

/-- Settles O50: outside a pass the host's turn always goes on; in a pass, by mode and phase, legality
gives the bytes that the step reads and the ranges that the packers ask. -/
theorem legalStatesNeverStick : Obligations.LegalStatesNeverStick := by
  intro s h
  by_cases hbusy : s.status = .busy
  · unfold State.StepSafe
    cases hmode : s.mode <;> cases hphase : s.phase
    case encode.framing =>
      rw [step_encode_framing hbusy hmode hphase]
      exact encodeFraming_answers s
    case encode.stream =>
      have hs : s.Encoding := ⟨hbusy, hmode, hphase⟩
      rw [step_encoding hs]
      split_ifs with hpxi
      · exact .inl (encoderStep_next_of_legal h hs hpxi)
      · exact .inl ⟨_, rfl⟩
    case decode.framing =>
      rw [step_decode_framing hbusy hmode hphase]
      exact decodeFraming_answers h.inHeld
    case decode.stream =>
      have hs : s.Decoding := ⟨hbusy, hmode, hphase⟩
      rw [step_decoding hs]
      exact .inl (decoderStep_next_of_legal h hs)
  · exact .inl (step_not_busy hbusy ▸ hostStep_next s)

end Sys2Proof.Machine
end

section
/-! PROOFS. The decoder reads every tag byte by the table of R79, and it inverts the encoder: one equation
of `decode` for each range of the tag byte, and what the unpackers read from the bytes that `encode`
writes. -/

namespace Sys2Proof

/-! ### One equation of the decoder for each range of the tag byte -/

theorem bits_top (b : Byte) : bits b 7 6 = b.toNat / 64 := by
  have := b.isLt
  simp only [bits]
  omega

/-- A byte below 0xFE is no full-byte tag (R70). -/
theorem ne_literal_tags {b : Byte} (h : b.toNat ≤ 0xFD) : b ≠ tagRgb ∧ b ≠ tagRgba := by
  constructor <;> rintro rfl <;> revert h <;> decide

theorem decode_rgb (r g b : Byte) (rest : List Byte) :
    decode (tagRgb :: r :: g :: b :: rest) = .ok (.rgb r g b, rest) := rfl

theorem decode_rgba (r g b a : Byte) (rest : List Byte) :
    decode (tagRgba :: r :: g :: b :: a :: rest) = .ok (.rgba r g b a, rest) := rfl

theorem decode_index {b0 : Byte} (hhigh : b0.toNat ≤ 0x3F) (rest : List Byte) :
    decode (b0 :: rest) = .ok (.index (unpackIndex b0), rest) := by
  obtain ⟨hrgb, hrgba⟩ := ne_literal_tags (b := b0) (by omega)
  have htop : bits b0 7 6 = 0 := by rw [bits_top]; omega
  simp [decode, hrgb, hrgba, htop]

theorem decode_diff {b0 : Byte} (hlow : 0x40 ≤ b0.toNat) (hhigh : b0.toNat ≤ 0x7F) (rest : List Byte) :
    decode (b0 :: rest) =
      .ok (.diff (unpackDiff b0).1 (unpackDiff b0).2.1 (unpackDiff b0).2.2, rest) := by
  obtain ⟨hrgb, hrgba⟩ := ne_literal_tags (b := b0) (by omega)
  have htop : bits b0 7 6 = 1 := by rw [bits_top]; omega
  simp [decode, hrgb, hrgba, htop]

theorem decode_luma {b0 : Byte} (hlow : 0x80 ≤ b0.toNat) (hhigh : b0.toNat ≤ 0xBF) (b1 : Byte)
    (rest : List Byte) :
    decode (b0 :: b1 :: rest) =
      .ok (.luma (unpackLuma b0 b1).1 (unpackLuma b0 b1).2.1 (unpackLuma b0 b1).2.2, rest) := by
  obtain ⟨hrgb, hrgba⟩ := ne_literal_tags (b := b0) (by omega)
  have htop : bits b0 7 6 = 2 := by rw [bits_top]; omega
  simp [decode, hrgb, hrgba, htop]

theorem decode_run {b0 : Byte} (hlow : 0xC0 ≤ b0.toNat) (hhigh : b0.toNat ≤ 0xFD) (rest : List Byte) :
    decode (b0 :: rest) = .ok (.run (unpackRun b0), rest) := by
  obtain ⟨hrgb, hrgba⟩ := ne_literal_tags hhigh
  have htop : bits b0 7 6 = 3 := by rw [bits_top]; omega
  simp [decode, hrgb, hrgba, htop]

theorem unpackIndex_val {b0 : Byte} (hhigh : b0.toNat ≤ 0x3F) : (unpackIndex b0).val = b0.toNat := by
  simp only [unpackIndex, bits, Fin.val_ofNat]
  omega

theorem unpackRun_eq {b0 : Byte} (hlow : 0xC0 ≤ b0.toNat) : unpackRun b0 = b0.toNat - 0xC0 + 1 := by
  have := b0.isLt
  simp only [unpackRun, bits]
  omega

/-- Settles O3: each range of the tag byte has its equation of the decoder, whose operands are the slices
of the table by definition of the unpackers. -/
theorem everyTagByteSelectsOneOpcode : Obligations.EveryTagByteSelectsOneOpcode := by
  intro b0 b1 b2 b3 b4 rest
  refine ⟨fun hindex => ?_, fun ⟨hlow, hhigh⟩ => ?_, fun ⟨hlow, hhigh⟩ => ?_, fun ⟨hlow, hhigh⟩ => ?_,
    fun hrgb => ?_, fun hrgba => ?_⟩
  · exact ⟨unpackIndex b0, unpackIndex_val hindex, decode_index hindex _⟩
  · exact decode_diff hlow hhigh _
  · exact decode_luma hlow hhigh _ _
  · have hcount : bits b0 5 0 + 1 = b0.toNat - 0xC0 + 1 := unpackRun_eq hlow
    exact ⟨by omega, by omega, decode_run hlow hhigh _⟩
  · obtain rfl : b0 = tagRgb := BitVec.eq_of_toNat_eq hrgb
    exact decode_rgb b1 b2 b3 _
  · obtain rfl : b0 = tagRgba := BitVec.eq_of_toNat_eq hrgba
    exact decode_rgba b1 b2 b3 b4 _

/-- Settles O4: the decoder computes on closed bytes. -/
theorem exampleWordsDecode : Obligations.ExampleWordsDecode :=
  ⟨rfl, rfl, rfl, rfl, rfl, rfl⟩

/-! ### The decoder on the bytes of each opcode (R137) -/

theorem toNat_ofInt_byte {v : Int} (hlow : 0 ≤ v) (hhigh : v ≤ 255) :
    ((BitVec.ofInt 8 v).toNat : Int) = v := by
  rw [BitVec.toNat_ofInt]
  omega

theorem diff_wf_iff {dr dg db : Int} :
    (Instr.diff dr dg db).wf = true ↔
      (-2 ≤ dr ∧ dr ≤ 1) ∧ (-2 ≤ dg ∧ dg ≤ 1) ∧ (-2 ≤ db ∧ db ≤ 1) := by
  simp [Instr.wf, and_assoc]

theorem luma_wf_iff {dg drg dbg : Int} :
    (Instr.luma dg drg dbg).wf = true ↔
      (-32 ≤ dg ∧ dg ≤ 31) ∧ (-8 ≤ drg ∧ drg ≤ 7) ∧ (-8 ≤ dbg ∧ dbg ≤ 7) := by
  simp [Instr.wf, and_assoc]

theorem run_wf_iff {n : Nat} : (Instr.run n).wf = true ↔ 1 ≤ n ∧ n ≤ 62 := by
  simp [Instr.wf, Config.runMax]

theorem decode_encode_index (k : Slot) (rest : List Byte) :
    decode (encode (.index k) ++ rest) = .ok (.index k, rest) := by
  have htag : (BitVec.ofNat 8 k.val).toNat = k.val := by
    rw [BitVec.toNat_ofNat]
    omega
  have hhigh : (BitVec.ofNat 8 k.val).toNat ≤ 0x3F := by omega
  have hslot : unpackIndex (BitVec.ofNat 8 k.val) = k := Fin.ext ((unpackIndex_val hhigh).trans htag)
  exact (decode_index hhigh rest).trans (by rw [hslot])

/-- Each field of DIFF has the two bits its biased value needs, so the three do not overlap (R74, D3). -/
theorem unpackDiff_of_fields {b : Byte} {dr dg db : Int} (hwf : (Instr.diff dr dg db).wf = true)
    (hb : (b.toNat : Int) = 0x40 + 16 * (dr + 2) + 4 * (dg + 2) + (db + 2)) :
    unpackDiff b = (dr, dg, db) := by
  obtain ⟨hdr, hdg, hdb⟩ := diff_wf_iff.1 hwf
  simp only [unpackDiff, bits, Prod.mk.injEq]
  omega

theorem decode_encode_diff {dr dg db : Int} (hwf : (Instr.diff dr dg db).wf = true) (rest : List Byte) :
    decode (encode (.diff dr dg db) ++ rest) = .ok (.diff dr dg db, rest) := by
  obtain ⟨hdr, hdg, hdb⟩ := diff_wf_iff.1 hwf
  have htag := toNat_ofInt_byte (v := 0x40 + 16 * (dr + 2) + 4 * (dg + 2) + (db + 2)) (by omega) (by omega)
  exact (decode_diff (by omega) (by omega) rest).trans (by rw [unpackDiff_of_fields hwf htag])

/-- Green has six bits of the tag byte; red and blue have a nibble each of the second (R75, D4). -/
theorem unpackLuma_of_fields {b0 b1 : Byte} {dg drg dbg : Int} (hwf : (Instr.luma dg drg dbg).wf = true)
    (hb0 : (b0.toNat : Int) = 0x80 + (dg + 32)) (hb1 : (b1.toNat : Int) = 16 * (drg + 8) + (dbg + 8)) :
    unpackLuma b0 b1 = (dg, drg, dbg) := by
  obtain ⟨hdg, hdrg, hdbg⟩ := luma_wf_iff.1 hwf
  simp only [unpackLuma, bits, Prod.mk.injEq]
  omega

theorem decode_encode_luma {dg drg dbg : Int} (hwf : (Instr.luma dg drg dbg).wf = true)
    (rest : List Byte) : decode (encode (.luma dg drg dbg) ++ rest) = .ok (.luma dg drg dbg, rest) := by
  obtain ⟨hdg, hdrg, hdbg⟩ := luma_wf_iff.1 hwf
  have htag := toNat_ofInt_byte (v := 0x80 + (dg + 32)) (by omega) (by omega)
  have hsecond := toNat_ofInt_byte (v := 16 * (drg + 8) + (dbg + 8)) (by omega) (by omega)
  exact (decode_luma (by omega) (by omega) _ rest).trans (by rw [unpackLuma_of_fields hwf htag hsecond])

/-- The largest count, 62, gives the tag byte 0xFD, so no RUN is taken for a literal (R76, R78). -/
theorem decode_encode_run {n : Nat} (hwf : (Instr.run n).wf = true) (rest : List Byte) :
    decode (encode (.run n) ++ rest) = .ok (.run n, rest) := by
  obtain ⟨hlow, hhigh⟩ := run_wf_iff.1 hwf
  have htag := toNat_ofInt_byte (v := 0xC0 + ((n : Int) - 1)) (by omega) (by omega)
  have hcount : unpackRun (BitVec.ofInt 8 (0xC0 + ((n : Int) - 1))) = n := by
    rw [unpackRun_eq] <;> omega
  exact (decode_run (by omega) (by omega) rest).trans (by rw [hcount])

/-- Settles O1, opcode by opcode. -/
theorem decodeInvertsEncode : Obligations.DecodeInvertsEncode := by
  intro i rest hwf
  cases i with
  | rgb r g b => exact decode_rgb r g b rest
  | rgba r g b a => exact decode_rgba r g b a rest
  | index k => exact decode_encode_index k rest
  | diff dr dg db => exact decode_encode_diff hwf rest
  | luma dg drg dbg => exact decode_encode_luma hwf rest
  | run n => exact decode_encode_run hwf rest

end Sys2Proof
end

section
/-! PROOFS. The header codec (40_header_codec.md): `be32` and `unbe32` are inverse, so each of `encodeHeader`
and `decodeHeader` undoes the other; the tests of both in their order; the faults of the encode pass's
framing. -/

namespace Sys2Proof.Machine

/-! ### `be32` and `unbe32` (R14) -/

/-- Four bytes make no number above 2^32 - 1, so `unbe32` drops nothing (D9). -/
theorem unbe32_toNat (b0 b1 b2 b3 : Byte) :
    (unbe32 b0 b1 b2 b3).toNat = b0.toNat * 2 ^ 24 + b1.toNat * 2 ^ 16 + b2.toNat * 2 ^ 8 + b3.toNat := by
  simp only [unbe32, BitVec.toNat_ofNat]
  omega

theorem be32_unbe32 (b0 b1 b2 b3 : Byte) : be32 (unbe32 b0 b1 b2 b3) = [b0, b1, b2, b3] := by
  simp only [be32, unbe32_toNat, List.cons.injEq, ← BitVec.toNat_inj, BitVec.toNat_ofNat, and_true]
  omega

/-- Every 32-bit value is `unbe32` of the four bytes that `be32` lists. -/
theorem be32_bytes (v : BitVec 32) :
    ∃ b0 b1 b2 b3 : Byte, be32 v = [b0, b1, b2, b3] ∧ unbe32 b0 b1 b2 b3 = v := by
  refine ⟨_, _, _, _, rfl, BitVec.eq_of_toNat_eq ?_⟩
  simp only [unbe32_toNat, BitVec.toNat_ofNat]
  omega

theorem unbe32_eq_zero_iff (b0 b1 b2 b3 : Byte) :
    unbe32 b0 b1 b2 b3 = 0 ↔ [b0, b1, b2, b3] = [0, 0, 0, 0] := by
  constructor
  · intro hzero
    rw [← be32_unbe32, hzero]
    decide
  · intro hbytes
    obtain ⟨rfl, rfl, rfl, rfl⟩ : b0 = 0 ∧ b1 = 0 ∧ b2 = 0 ∧ b3 = 0 := by simpa using hbytes
    decide

/-! ### The tests of the two codecs (R24, R100, R102) -/

theorem legalChannels_iff (ch : Byte) : legalChannels ch = true ↔ ch = 3 ∨ ch = 4 := by
  simp [legalChannels]

theorem legalColorSpace_iff (cs : Byte) : legalColorSpace cs = true ↔ cs = 0 ∨ cs = 1 := by
  simp [legalColorSpace]

theorem Header.legal_iff (h : Header) :
    h.legal = true ↔ (h.channels = 3 ∨ h.channels = 4) ∧ (h.colorSpace = 0 ∨ h.colorSpace = 1) ∧
      h.width ≠ 0 ∧ h.height ≠ 0 := by
  simp [Header.legal, legalChannels_iff, legalColorSpace_iff, and_assoc]

/-- The codec's Boolean tests as propositions. -/
theorem encodeHeader_eq (cfg : Config.Params) (h : Header) :
    encodeHeader cfg h =
      if ¬ (h.channels = 3 ∨ h.channels = 4) then .error .imageBadChannels
      else if ¬ (h.colorSpace = 0 ∨ h.colorSpace = 1) then .error .imageBadColorSpace
      else if h.width = 0 ∨ h.height = 0 then .error .imageZeroDimension
      else .ok (cfg.magic.toList ++ be32 h.width ++ be32 h.height ++ [h.channels, h.colorSpace]) := by
  simp only [encodeHeader, ← legalChannels_iff, ← legalColorSpace_iff, Bool.not_eq_true,
    Bool.not_eq_true', Bool.or_eq_true, beq_iff_eq]

theorem encodeHeader_of_legal {cfg : Config.Params} {h : Header} (hlegal : h.legal = true) :
    encodeHeader cfg h =
      .ok (cfg.magic.toList ++ be32 h.width ++ be32 h.height ++ [h.channels, h.colorSpace]) := by
  obtain ⟨hch, hcs, hw, hh⟩ := h.legal_iff.1 hlegal
  rw [encodeHeader_eq, if_neg (not_not.2 hch), if_neg (not_not.2 hcs), if_neg (not_or.2 ⟨hw, hh⟩)]

theorem decodeHeader_of_length_ne {cfg : Config.Params} {hb : List Byte} (hlen : hb.length ≠ 14) :
    decodeHeader cfg hb = .error .badLength := by
  unfold decodeHeader
  split
  · exact absurd rfl hlen
  · rfl

/-- The tests on 14 bytes, as propositions; the fields at the offsets of R104. -/
theorem decodeHeader_eq (cfg : Config.Params) (m0 m1 m2 m3 w0 w1 w2 w3 h0 h1 h2 h3 ch cs : Byte) :
    decodeHeader cfg [m0, m1, m2, m3, w0, w1, w2, w3, h0, h1, h2, h3, ch, cs] =
      if [m0, m1, m2, m3] ≠ cfg.magic.toList then .error .badMagic
      else if ¬ (ch = 3 ∨ ch = 4) then .error .badChannels
      else if ¬ (cs = 0 ∨ cs = 1) then .error .badColorSpace
      else if unbe32 w0 w1 w2 w3 = 0 ∨ unbe32 h0 h1 h2 h3 = 0 then .error .zeroDimension
      else .ok ⟨unbe32 w0 w1 w2 w3, unbe32 h0 h1 h2 h3, ch, cs⟩ := by
  simp only [decodeHeader, ← legalChannels_iff, ← legalColorSpace_iff, Bool.not_eq_true,
    Bool.not_eq_true', Bool.or_eq_true, beq_iff_eq]

/-! ### Each codec undoes the other (R105) -/

theorem magic_toList (m : Vector Byte 4) : m.toList = [m[0], m[1], m[2], m[3]] :=
  match m with
  | ⟨⟨[_, _, _, _]⟩, rfl⟩ => rfl

theorem decodeHeader_of_encodeHeader {cfg : Config.Params} {h : Header} {hb : List Byte}
    (hok : encodeHeader cfg h = .ok hb) : decodeHeader cfg hb = .ok h := by
  have hlegal := (encodeHeader_ok hok).1
  obtain ⟨hch, hcs, hw, hh⟩ := h.legal_iff.1 hlegal
  obtain ⟨w0, w1, w2, w3, hwBytes, hwidth⟩ := be32_bytes h.width
  obtain ⟨h0, h1, h2, h3, hhBytes, hheight⟩ := be32_bytes h.height
  rw [encodeHeader_of_legal hlegal, hwBytes, hhBytes, magic_toList] at hok
  cases hok
  refine (decodeHeader_eq ..).trans ?_
  rw [hwidth, hheight, if_neg (not_not.2 (magic_toList _).symm), if_neg (not_not.2 hch),
    if_neg (not_not.2 hcs), if_neg (not_or.2 ⟨hw, hh⟩)]

theorem encodeHeader_of_decodeHeader {cfg : Config.Params} {h : Header} {hb : List Byte}
    (hok : decodeHeader cfg hb = .ok h) : encodeHeader cfg h = .ok hb := by
  rw [encodeHeader_of_legal (decodeHeader_ok_legal hok)]
  unfold decodeHeader at hok
  split at hok
  · split_ifs at hok with hmagic hch hcs hdim
    cases hok
    rw [← not_ne_iff.1 hmagic, be32_unbe32, be32_unbe32]
    rfl
  · cases hok

/-- Settles O6: a legal header has its 14 bytes, and each codec undoes the other. -/
theorem headerRoundTrip : Obligations.HeaderRoundTrip := by
  refine fun cfg => ⟨fun h hlegal => ?_, fun hb h => encodeHeader_of_decodeHeader⟩
  have hok := encodeHeader_of_legal (cfg := cfg) hlegal
  exact ⟨_, hok, (encodeHeader_ok hok).2, decodeHeader_of_encodeHeader hok⟩

/-- Settles O8: the clauses follow the branches of `decodeHeader`; a dimension is 0 exactly where its four
bytes are. -/
theorem decodeHeaderTestsInOrder : Obligations.DecodeHeaderTestsInOrder := by
  refine fun cfg hb => ⟨decodeHeader_of_length_ne, ?_⟩
  rintro m0 m1 m2 m3 w0 w1 w2 w3 h0 h1 h2 h3 ch cs rfl
  simp only [← unbe32_eq_zero_iff, ← unbe32_toNat]
  refine ⟨fun hmagic => ?_, fun hmagic hch => ?_, fun hmagic hch hcs => ?_,
    fun hmagic hch hcs hzero => ?_, fun hmagic hch hcs hdim => ?_⟩
  · rw [decodeHeader_eq, if_pos hmagic]
  · rw [decodeHeader_eq, if_neg (not_not.2 hmagic), if_pos hch]
  · rw [decodeHeader_eq, if_neg (not_not.2 hmagic), if_neg (not_not.2 hch), if_pos hcs]
  · rw [decodeHeader_eq, if_neg (not_not.2 hmagic), if_neg (not_not.2 hch), if_neg (not_not.2 hcs),
      if_pos hzero]
  · rw [decodeHeader_eq, if_neg (not_not.2 hmagic), if_neg (not_not.2 hch), if_neg (not_not.2 hcs),
      if_neg hdim]
    exact ⟨_, rfl, rfl, rfl, rfl, rfl⟩

/-- Settles O7: the clauses follow the branches of `encodeHeader`, and the bytes of a dimension are those of
`be32`. -/
theorem encodeHeaderTestsInOrder : Obligations.EncodeHeaderTestsInOrder := by
  refine fun cfg h => ⟨fun hch => ?_, fun hch hcs => ?_, fun hch hcs hzero => ?_,
    fun hch hcs hw hh => ?_⟩
  · rw [encodeHeader_eq, if_pos hch]
  · rw [encodeHeader_eq, if_neg (not_not.2 hch), if_pos hcs]
  · rw [encodeHeader_eq, if_neg (not_not.2 hch), if_neg (not_not.2 hcs), if_pos hzero]
  · obtain ⟨w0, w1, w2, w3, hwBytes, hwidth⟩ := be32_bytes h.width
    obtain ⟨h0, h1, h2, h3, hhBytes, hheight⟩ := be32_bytes h.height
    refine ⟨w0, w1, w2, w3, h0, h1, h2, h3, ?_, ?_, ?_⟩
    · rw [encodeHeader_of_legal (h.legal_iff.2 ⟨hch, hcs, hw, hh⟩), hwBytes, hhBytes, magic_toList]
      rfl
    · rw [← hwidth, unbe32_toNat]
    · rw [← hheight, unbe32_toNat]

/-! ### The faults of the encode pass's framing (R210) -/

theorem encodeHeader_error_class {cfg : Config.Params} {h : Header} {c : FaultCause}
    (herr : encodeHeader cfg h = .error c) : c.faultClass = .invalidInput := by
  rw [encodeHeader_eq] at herr
  split_ifs at herr <;> cases herr <;> rfl

theorem encodeFraming_of_header_error {s : State} {c : FaultCause}
    (herr : encodeHeader s.cfg s.header = .error c) : encodeFraming s = .next (s.raise c) := by
  simp [encodeFraming, herr]

theorem encodeFraming_of_pixLen_ne {s : State} (hlegal : s.header.legal = true)
    (hcap : exceedsCapacity s.cfg s.pixelCount = false) (hlen : s.pixLen ≠ s.pixelCount) :
    encodeFraming s = .next (s.raise .bufferLengthMismatch) := by
  simp [encodeFraming, encodeHeader_of_legal hlegal, hcap, hlen]

/-- What a fault of class InvalidInput leaves in an encode pass (R235, R237). -/
theorem State.raise_invalidInput {s : State} {c : FaultCause} (hmode : s.mode = .encode)
    (hclass : c.faultClass = .invalidInput) :
    (s.raise c).status = .fault ∧ (s.raise c).fclass = some .invalidInput ∧
      (s.raise c).fcause = some c ∧ (s.raise c).outMem = [] :=
  ⟨s.raise_status c, hclass ▸ s.raise_fclass c, s.raise_fcause c, (s.raise_encode c hmode).1⟩

/-- Settles O38: either test of the framing raises a fault of class InvalidInput, and raising one in an
encode pass empties OUT. -/
theorem encodeFramingFaultsInOrder : Obligations.EncodeFramingFaultsInOrder := by
  intro s hbusy hmode hphase
  rw [step_encode_framing hbusy hmode hphase]
  exact ⟨fun c herr => ⟨_, encodeFraming_of_header_error herr,
      State.raise_invalidInput hmode (encodeHeader_error_class herr)⟩,
    fun hlegal hcap hlen => ⟨_, encodeFraming_of_pixLen_ne hlegal hcap hlen,
      State.raise_invalidInput hmode rfl⟩⟩

end Sys2Proof.Machine
end

section
/-! PROOFS. The pixel cache (41_pixel_cache.md): the hash, the one slot a store changes, and the relation
between the encoder's and the decoder's registers. The encoder does not store a repeated pixel and the
decoder does; the two caches differ in slot 53 only, where the start pixel's hash points. -/

namespace Sys2Proof.Machine

/-! ### The hash -/

theorem pixelHash_val (p : Pixel) :
    (pixelHash p).val = (p.r.toNat * 3 + p.g.toNat * 5 + p.b.toNat * 7 + p.a.toNat * 11) % 64 := rfl

theorem weightedSum_le (p : Pixel) :
    p.r.toNat * 3 + p.g.toNat * 5 + p.b.toNat * 7 + p.a.toNat * 11 ≤ 6630 := by
  have hr := p.r.isLt
  have hg := p.g.isLt
  have hb := p.b.isLt
  have ha := p.a.isLt
  omega

/-- 8 bits of the sum are enough: 64 divides 256 (R120). -/
theorem pixelHash_val_byte (p : Pixel) :
    (pixelHash p).val = (p.r * 3 + p.g * 5 + p.b * 7 + p.a * 11).toNat % 64 := by
  rw [pixelHash_val]
  simp only [BitVec.toNat_add, BitVec.toNat_mul, BitVec.ofNat_eq_ofNat, BitVec.toNat_ofNat]
  omega

/-- Settles O9: the weighted sum is the hash's definition, its bound is that of four bytes, and the
examples of R120 are evaluated. -/
theorem hashIsTheWeightedSum : Obligations.HashIsTheWeightedSum :=
  ⟨fun p => ⟨pixelHash_val p, weightedSum_le p, pixelHash_val_byte p⟩, by decide⟩

/-! ### The slots -/

/-- A store changes the slot of its pixel's hash and no other (R121). -/
theorem cacheStore_getElem (x : Cache) (p : Pixel) (k : Slot) :
    (cacheStore x p)[k] = if k = pixelHash p then p else x[k] := by
  simp only [cacheStore, Fin.getElem_fin, Vector.getElem_set, Fin.ext_iff, eq_comm]

@[simp] theorem cacheStore_getElem_same (x : Cache) (p : Pixel) : (cacheStore x p)[pixelHash p] = p := by
  rw [cacheStore_getElem, if_pos rfl]

theorem cacheStore_getElem_of_ne {x : Cache} {p : Pixel} {k : Slot} (h : k ≠ pixelHash p) :
    (cacheStore x p)[k] = x[k] := by
  rw [cacheStore_getElem, if_neg h]

theorem cacheStore_of_held {x : Cache} {p : Pixel} (h : x[pixelHash p] = p) : cacheStore x p = x :=
  calc cacheStore x p = x.set (pixelHash p) x[pixelHash p] := by rw [cacheStore, h]
    _ = x := Vector.set_getElem_self _

theorem hitsCache_iff (x : Cache) (p : Pixel) : hitsCache x p = true ↔ x[pixelHash p] = p := by
  simp only [hitsCache, cacheRead, beq_iff_eq]

/-- On a hit the slot holds the pixel already, so the encoder's cache is the stored one in either case. -/
theorem cacheAfter_eq_cacheStore (x : Cache) (p : Pixel) : cacheAfter x p = cacheStore x p := by
  unfold cacheAfter
  split_ifs with hhit
  · exact (cacheStore_of_held ((hitsCache_iff x p).1 hhit)).symm
  · rfl

/-- Settles O10: a read after a store, and what follows from it. -/
theorem cacheStoreIsDirectMapped : Obligations.CacheStoreIsDirectMapped :=
  ⟨cacheStore_getElem, fun _ p hlegal => hlegal.store p, fun _ _ => cacheStore_of_held, cacheLegal_start⟩

/-! ### The pixel of the selected opcode -/

/-- Adding a channel's DELTA undoes it, whatever multiple of 256 the build adds (R186, R7). -/
theorem addDelta_delta (cfg : Config.Params) (c q : Byte) : addDelta q (delta cfg c q) = c := by
  have h256 : BitVec.ofInt 8 256 = 0 := rfl
  rw [addDelta, delta, BitVec.ofInt_add, BitVec.ofInt_toInt, BitVec.ofInt_mul, h256, zero_mul, add_zero,
    add_sub_cancel]

theorem diffPixel_delta {cfg : Config.Params} {prev p : Pixel} (ha : p.a = prev.a) :
    diffPixel prev (delta cfg p.r prev.r) (delta cfg p.g prev.g) (delta cfg p.b prev.b) = p := by
  simp only [diffPixel, addDelta_delta, ← ha]

/-- The cross deltas cancel the green delta they were taken from (R157, R187). -/
theorem lumaPixel_delta {cfg : Config.Params} {prev p : Pixel} (ha : p.a = prev.a) :
    lumaPixel prev (delta cfg p.g prev.g) (delta cfg p.r prev.r - delta cfg p.g prev.g)
      (delta cfg p.b prev.b - delta cfg p.g prev.g) = p := by
  simp only [lumaPixel, add_sub_cancel, addDelta_delta, ← ha]

/-- The opcode the encoder selects gives its pixel back to a decoder that has the encoder's PREV and, on a
hit, the pixel in the slot INDEX names. -/
theorem opcodePixel_selectOpcode (cfg : Config.Params) {prev p : Pixel} {x : Cache} {d : DecRegs}
    (hprev : prev = d.prev) (hslot : x[pixelHash p] = p → d.cache[pixelHash p] = p) :
    opcodePixel (selectOpcode cfg prev x p) d = p := by
  subst hprev
  unfold selectOpcode
  split_ifs with hhit halpha
  · exact hslot ((hitsCache_iff x p).1 hhit)
  · have ha : p.a = d.prev.a := beq_iff_eq.1 halpha
    dsimp only
    split_ifs
    · exact diffPixel_delta ha
    · exact lumaPixel_delta ha
    · simp only [opcodePixel, rgbPixel, ← ha]
  · rfl

/-! ### The registers in lock step (R123) -/

theorem regsAgree_start :
    RegsAgree EncRegs.start ⟨Config.startPixel, Vector.replicate 64 Config.zeroPixel⟩ :=
  ⟨rfl, fun _ _ => rfl, .inl rfl, cacheLegal_start, .inl ⟨rfl, rfl⟩⟩

section Agreement

variable {e : EncRegs} {d : DecRegs}

theorem RegsAgree.prev_eq (h : RegsAgree e d) : e.prev = d.prev := h.1

/-- A slot agrees, or it is slot 53 and the encoder's still holds the zero pixel. -/
theorem RegsAgree.slot_cases (h : RegsAgree e d) (k : Slot) :
    e.cache[k] = d.cache[k] ∨ (k = 53 ∧ e.cache[k] = Config.zeroPixel) := by
  obtain ⟨-, hslots, h53, -, -⟩ := h
  by_cases hk : k = 53
  · subst hk
    exact h53.imp_right fun ⟨_, hzero⟩ => ⟨rfl, hzero⟩
  · exact .inl (hslots k hk)

/-- A pixel in its own slot of the encoder's cache is in the decoder's too: where the slots differ, the
encoder's holds the zero pixel, whose own slot is 0 and not 53. -/
theorem RegsAgree.slot_held (h : RegsAgree e d) {p : Pixel} (hp : e.cache[pixelHash p] = p) :
    d.cache[pixelHash p] = p := by
  obtain hsame | ⟨hk, hzero⟩ := h.slot_cases (pixelHash p)
  · rw [← hsame, hp]
  · have hne : pixelHash Config.zeroPixel ≠ 53 := by decide
    obtain rfl : p = Config.zeroPixel := hp.symm.trans hzero
    exact absurd hk hne

/-- Storing the same pixel on both sides keeps the relation. -/
theorem RegsAgree.store (h : RegsAgree e d) (p : Pixel) (run : BitVec 6) :
    RegsAgree ⟨p, cacheStore e.cache p, run⟩ ⟨p, cacheStore d.cache p⟩ := by
  obtain ⟨-, hslots, h53, hlegal, -⟩ := h
  refine ⟨rfl, fun k hk => ?_, ?_, hlegal.store p, .inr (cacheStore_getElem_same _ p)⟩
  · simp only [cacheStore_getElem, hslots k hk]
  · by_cases hp : (53 : Slot) = pixelHash p
    · left
      simp only [cacheStore_getElem, if_pos hp]
    · simpa only [cacheStore_getElem_of_ne hp] using h53

/-- A RUN changes nothing on the decoder's side where PREV is in its slot already. -/
theorem RegsAgree.after_run_of_held (h : RegsAgree e d) (hheld : e.cache[pixelHash e.prev] = e.prev)
    (n : Nat) : d.after (.run n) = d := by
  have hslot : d.cache[pixelHash d.prev] = d.prev := by
    simpa only [h.prev_eq] using h.slot_held hheld
  simp only [DecRegs.after, opcodePixel, cacheStore_of_held hslot]

/-- A RUN stores PREV on the decoder's side only. It is in its slot already, or it is the start pixel and
no pixel was stored before it, which is the difference slot 53 allows. -/
theorem RegsAgree.after_run (h : RegsAgree e d) (n : Nat) (run : BitVec 6) :
    RegsAgree { e with run := run } (d.after (.run n)) := by
  have hkept := h.after_run_of_held (n := n)
  obtain ⟨hprev, hslots, h53, hlegal, ⟨hstart, hzero⟩ | hheld⟩ := h
  · have hstored : d.after (.run n) = ⟨Config.startPixel, cacheStore d.cache Config.startPixel⟩ := by
      rw [← hstart, hprev]
      rfl
    have hhash : pixelHash Config.startPixel = 53 := by decide
    rw [hstored]
    refine ⟨hstart, fun k hk => ?_, .inr ⟨?_, ?_⟩, hlegal, .inl ⟨hstart, hzero⟩⟩
    · rw [cacheStore_getElem_of_ne (hhash ▸ hk)]
      exact hslots k hk
    · rw [cacheStore_getElem, if_pos hhash.symm]
    · simp [hzero]
  · rw [hkept hheld]
    exact ⟨hprev, hslots, h53, hlegal, .inr hheld⟩

theorem RegsAgree.after_flushRun (h : RegsAgree e d) :
    RegsAgree e ((flushRun e.run).foldl DecRegs.after d) := by
  unfold flushRun
  split_ifs
  · exact h
  · exact h.after_run _ e.run

/-- The selected opcode makes the decoder produce and store the pixel the encoder stored. -/
theorem RegsAgree.after_selectOpcode (h : RegsAgree e d) (cfg : Config.Params) (p : Pixel)
    (run : BitVec 6) :
    RegsAgree ⟨p, cacheAfter e.cache p, run⟩ (d.after (selectOpcode cfg e.prev e.cache p)) := by
  rw [cacheAfter_eq_cacheStore, DecRegs.after, opcodePixel_selectOpcode cfg h.prev_eq h.slot_held]
  exact h.store p run

/-- Coding a pixel and decoding its opcodes keeps the relation, in each of the three ways of a pixel. -/
theorem RegsAgree.after_encodePixel (h : RegsAgree e d) (cfg : Config.Params) (last : Bool) (p : Pixel) :
    RegsAgree (encodePixel cfg last p e).2 ((encodePixel cfg last p e).1.foldl DecRegs.after d) := by
  obtain ⟨-, heq⟩ | ⟨-, heq⟩ | heq := encodePixel_cases cfg last p e
  · rw [heq]
    exact h.after_run _ 0
  · rw [heq]
    exact h
  · rw [heq, List.foldl_append]
    exact h.after_flushRun.after_selectOpcode cfg p 0

end Agreement

/-- Settles O30: the relation holds at the start, every pixel keeps it, and it carries a held pixel over to
the decoder. -/
theorem registersStayInLockStep : Obligations.RegistersStayInLockStep :=
  ⟨regsAgree_start, fun cfg last p _ _ h => ⟨h.after_encodePixel cfg last p, fun _ => h.slot_held⟩⟩

end Sys2Proof.Machine
end

section
/-! PROOFS. Encoding inverts decoding (30_encoding.md R137), by what a byte sequence that decodes can be;
and what each packer answers (42_opcode_packer.md). -/

namespace Sys2Proof

/-! ### Which bytes decode, and to what -/

/-- The byte sequences that decode, one constructor an opcode, with the range of the tag byte (R79). -/
inductive DecodesTo : List Byte → Instr → List Byte → Prop
  | rgb (r g b : Byte) (rest : List Byte) : DecodesTo (tagRgb :: r :: g :: b :: rest) (.rgb r g b) rest
  | rgba (r g b a : Byte) (rest : List Byte) :
      DecodesTo (tagRgba :: r :: g :: b :: a :: rest) (.rgba r g b a) rest
  | index {b0 : Byte} (hhigh : b0.toNat ≤ 0x3F) (rest : List Byte) :
      DecodesTo (b0 :: rest) (.index (unpackIndex b0)) rest
  | diff {b0 : Byte} (hlow : 0x40 ≤ b0.toNat) (hhigh : b0.toNat ≤ 0x7F) (rest : List Byte) :
      DecodesTo (b0 :: rest) (.diff (unpackDiff b0).1 (unpackDiff b0).2.1 (unpackDiff b0).2.2) rest
  | luma {b0 : Byte} (hlow : 0x80 ≤ b0.toNat) (hhigh : b0.toNat ≤ 0xBF) (b1 : Byte) (rest : List Byte) :
      DecodesTo (b0 :: b1 :: rest)
        (.luma (unpackLuma b0 b1).1 (unpackLuma b0 b1).2.1 (unpackLuma b0 b1).2.2) rest
  | run {b0 : Byte} (hlow : 0xC0 ≤ b0.toNat) (hhigh : b0.toNat ≤ 0xFD) (rest : List Byte) :
      DecodesTo (b0 :: rest) (.run (unpackRun b0)) rest

/-- A byte that is neither full-byte tag is below both (R70). -/
theorem toNat_le_of_ne_literal_tags {b : Byte} (hrgb : b ≠ tagRgb) (hrgba : b ≠ tagRgba) :
    b.toNat ≤ 0xFD := by
  have hlt := b.isLt
  have h254 : b.toNat ≠ 0xFE := fun h => hrgb (BitVec.eq_of_toNat_eq h)
  have h255 : b.toNat ≠ 0xFF := fun h => hrgba (BitVec.eq_of_toNat_eq h)
  omega

/-- The branches of `decode`, read backwards. -/
theorem decodesTo_of_decode {bs rest : List Byte} {i : Instr} (h : decode bs = .ok (i, rest)) :
    DecodesTo bs i rest := by
  unfold decode at h
  split at h
  · cases h
  next b0 more =>
    split_ifs at h with hrgb hrgba
    · subst hrgb
      split at h <;> cases h
      exact .rgb ..
    · subst hrgba
      split at h <;> cases h
      exact .rgba ..
    · have hhigh := toNat_le_of_ne_literal_tags hrgb hrgba
      rw [bits_top] at h
      split at h
      · cases h
        exact .index (by omega) _
      · cases h
        exact .diff (by omega) (by omega) _
      · split at h <;> cases h
        exact .luma (by omega) (by omega) ..
      next hindex hdiff hluma =>
        rw [imp_false] at hindex hdiff hluma
        cases h
        exact .run (by omega) hhigh _

/-! ### The operands that the unpackers read encode to the bytes read -/

theorem ofInt_byte_eq {v : Int} {b : Byte} (h : v = b.toNat) : BitVec.ofInt 8 v = b := by
  rw [h, BitVec.ofInt_natCast, BitVec.ofNat_toNat, BitVec.setWidth_eq]

theorem unpackDiff_wf (b0 : Byte) :
    (Instr.diff (unpackDiff b0).1 (unpackDiff b0).2.1 (unpackDiff b0).2.2).wf = true := by
  rw [diff_wf_iff]
  simp only [unpackDiff, bits]
  omega

theorem unpackLuma_wf (b0 b1 : Byte) :
    (Instr.luma (unpackLuma b0 b1).1 (unpackLuma b0 b1).2.1 (unpackLuma b0 b1).2.2).wf = true := by
  rw [luma_wf_iff]
  simp only [unpackLuma, bits]
  omega

theorem encode_unpackIndex {b0 : Byte} (hhigh : b0.toNat ≤ 0x3F) :
    encode (.index (unpackIndex b0)) = [b0] := by
  rw [encode, unpackIndex_val hhigh, BitVec.ofNat_toNat, BitVec.setWidth_eq]

theorem encode_unpackDiff {b0 : Byte} (hlow : 0x40 ≤ b0.toNat) (hhigh : b0.toNat ≤ 0x7F) :
    encode (.diff (unpackDiff b0).1 (unpackDiff b0).2.1 (unpackDiff b0).2.2) = [b0] := by
  rw [encode, ofInt_byte_eq]
  simp only [unpackDiff, bits]
  omega

theorem encode_unpackLuma {b0 : Byte} (hlow : 0x80 ≤ b0.toNat) (hhigh : b0.toNat ≤ 0xBF) (b1 : Byte) :
    encode (.luma (unpackLuma b0 b1).1 (unpackLuma b0 b1).2.1 (unpackLuma b0 b1).2.2) = [b0, b1] := by
  have hb1 := b1.isLt
  rw [encode, ofInt_byte_eq (b := b0), ofInt_byte_eq (b := b1)] <;>
  · simp only [unpackLuma, bits]
    omega

theorem encode_unpackRun {b0 : Byte} (hlow : 0xC0 ≤ b0.toNat) : encode (.run (unpackRun b0)) = [b0] := by
  rw [encode, unpackRun_eq hlow, ofInt_byte_eq]
  omega

/-- Settles O2, opcode by opcode: the fields of a tag byte are in range and make up that byte again. -/
theorem encodeInvertsDecode : Obligations.EncodeInvertsDecode := by
  intro bs rest i h
  cases decodesTo_of_decode h with
  | rgb r g b => exact ⟨rfl, rfl⟩
  | rgba r g b a => exact ⟨rfl, rfl⟩
  | index hhigh => exact ⟨rfl, congrArg (· ++ rest) (encode_unpackIndex hhigh)⟩
  | diff hlow hhigh => exact ⟨unpackDiff_wf _, congrArg (· ++ rest) (encode_unpackDiff hlow hhigh)⟩
  | luma hlow hhigh b1 =>
    exact ⟨unpackLuma_wf _ b1, congrArg (· ++ rest) (encode_unpackLuma hlow hhigh b1)⟩
  | run hlow hhigh =>
    have hcount := unpackRun_eq hlow
    exact ⟨run_wf_iff.2 (by omega), congrArg (· ++ rest) (encode_unpackRun hlow)⟩

end Sys2Proof

namespace Sys2Proof.Machine

/-! ### The packers on every integer (R131 to R136) -/

/-- A packer answers the encoding exactly in the range that `wf` names (R130). -/
theorem pack_eq_ite {i : Instr} {P : Prop} [Decidable P] (hwf : i.wf = true ↔ P) :
    pack i = if P then .ok (encode i) else .error .payloadRange :=
  if_congr hwf rfl rfl

theorem inRange_iff {lo hi v : Int} : inRange lo hi v = true ↔ lo ≤ v ∧ v ≤ hi := by
  rw [Bool.and_eq_true, decide_eq_true_iff, decide_eq_true_iff]

/-- In range the port's six bits hold the whole integer (R133, D20). -/
theorem packIndex_eq (k : Int) :
    packIndex k = if 0 ≤ k ∧ k ≤ 63 then .ok [BitVec.ofInt 8 k] else .error .payloadRange := by
  unfold packIndex
  simp only [inRange_iff]
  split_ifs with hrange
  · obtain ⟨n, rfl⟩ := Int.eq_ofNat_of_zero_le hrange.1
    have hslot : (Fin.ofNat 64 n).val = n := Nat.mod_eq_of_lt (by omega)
    rw [pack_ok rfl, encode, Int.toNat_natCast, hslot, BitVec.ofInt_natCast]
  · rfl

theorem packRun_eq (n : Int) :
    packRun n =
      if 1 ≤ n ∧ n ≤ 62 then .ok [BitVec.ofInt 8 (0xC0 + (n - 1))] else .error .payloadRange := by
  unfold packRun
  simp only [inRange_iff]
  split_ifs with hrange
  · obtain ⟨m, rfl⟩ := Int.eq_ofNat_of_zero_le (show 0 ≤ n by omega)
    exact pack_ok (run_wf_iff.2 (by omega))
  · rfl

/-- Settles O5: each range is that of `wf`, and the bytes are those of `encode`. -/
theorem packersAnswerBytesOrRangeFault : Obligations.PackersAnswerBytesOrRangeFault :=
  ⟨fun _ => ⟨pack_ok rfl, pack_ok rfl⟩, packIndex_eq, fun _ _ _ => pack_eq_ite diff_wf_iff,
    fun _ _ _ => pack_eq_ite luma_wf_iff, packRun_eq, rfl⟩

end Sys2Proof.Machine
end

section
/-! PROOFS. One pixel of the encoder (43_encoder.md): which opcode its ordered tests select, what the run
path and every other path do, and the state one encoder step leaves. -/

namespace Sys2Proof.Machine

/-! ### The ordered tests (R151 to R159) -/

theorem keepsAlpha_iff (prev p : Pixel) : keepsAlpha prev p = true ↔ p.a = prev.a := by
  rw [keepsAlpha, beq_iff_eq]

theorem runEnds_iff (n : Nat) (last : Bool) : runEnds n last = true ↔ n = 62 ∨ last = true := by
  rw [runEnds, Bool.or_eq_true, decide_eq_true_iff]

section Selection

variable {cfg : Config.Params} {prev p : Pixel} {x : Cache}

theorem selectOpcode_of_hit (hhit : x[pixelHash p] = p) :
    selectOpcode cfg prev x p = .index (pixelHash p) :=
  if_pos ((hitsCache_iff x p).2 hhit)

theorem selectOpcode_of_miss (hmiss : x[pixelHash p] ≠ p) :
    selectOpcode cfg prev x p =
      if p.a = prev.a then
        if (Instr.diff (delta cfg p.r prev.r) (delta cfg p.g prev.g) (delta cfg p.b prev.b)).wf then
          .diff (delta cfg p.r prev.r) (delta cfg p.g prev.g) (delta cfg p.b prev.b)
        else if (Instr.luma (delta cfg p.g prev.g) (delta cfg p.r prev.r - delta cfg p.g prev.g)
            (delta cfg p.b prev.b - delta cfg p.g prev.g)).wf then
          .luma (delta cfg p.g prev.g) (delta cfg p.r prev.r - delta cfg p.g prev.g)
            (delta cfg p.b prev.b - delta cfg p.g prev.g)
        else .rgb p.r p.g p.b
      else .rgba p.r p.g p.b p.a :=
  (if_neg fun h => hmiss ((hitsCache_iff x p).1 h)).trans
    (if_congr (keepsAlpha_iff prev p) rfl rfl)

/-- No pixel's own opcode is a RUN: those come from the run counter only (R152, R153). -/
theorem selectOpcode_ne_run (n : Nat) : selectOpcode cfg prev x p ≠ .run n := by
  by_cases hhit : x[pixelHash p] = p
  · rw [selectOpcode_of_hit hhit]
    nofun
  · rw [selectOpcode_of_miss hhit]
    split_ifs <;> nofun

theorem opcodeCount_selectOpcode : opcodeCount (selectOpcode cfg prev x p) = 1 := by
  cases h : selectOpcode cfg prev x p with
  | run n => exact absurd h (selectOpcode_ne_run n)
  | _ => rfl

end Selection

/-- Settles O24: on a hit the first test decides; on a miss the others, in their order. -/
theorem selectionFollowsTheOrderedTests : Obligations.SelectionFollowsTheOrderedTests := by
  refine fun cfg prev x p => ⟨fun hhit => ⟨selectOpcode_of_hit hhit, ?_⟩,
    fun hmiss => ⟨cacheAfter_eq_cacheStore x p, fun halpha => ?_, ?_⟩⟩
  · rw [cacheAfter_eq_cacheStore, cacheStore_of_held hhit]
  · rw [selectOpcode_of_miss hmiss, if_neg halpha]
  · rintro halpha dr dg db rfl rfl rfl
    rw [selectOpcode_of_miss hmiss, if_pos halpha, ← diff_wf_iff, ← luma_wf_iff]
    refine ⟨fun hdiff => ?_, fun hdiff hluma => ?_, fun hdiff hluma => ?_⟩
    · rw [if_pos hdiff]
    · rw [if_neg hdiff, if_pos hluma]
    · rw [if_neg hdiff, if_neg hluma]

/-! ### One pixel -/

/-- The run path (R152). -/
theorem encodePixel_repeat (cfg : Config.Params) (last : Bool) (e : EncRegs) :
    encodePixel cfg last e.prev e =
      if e.run.toNat + 1 = 62 ∨ last = true then ([.run (e.run.toNat + 1)], { e with run := 0 })
      else ([], { e with run := BitVec.ofNat 6 (e.run.toNat + 1) }) :=
  (if_pos (beq_self_eq_true e.prev)).trans (if_congr (runEnds_iff _ last) rfl rfl)

/-- Every other path (R153 to R160). -/
theorem encodePixel_of_ne (cfg : Config.Params) (last : Bool) {p : Pixel} {e : EncRegs}
    (hne : p ≠ e.prev) :
    encodePixel cfg last p e = (flushRun e.run ++ [selectOpcode cfg e.prev e.cache p],
      { prev := p, cache := cacheAfter e.cache p, run := 0 }) :=
  if_neg fun h => hne (beq_iff_eq.1 h)

theorem runCount_succ_toNat {run : BitVec 6} (h : run.toNat ≤ 61) :
    (BitVec.ofNat 6 (run.toNat + 1)).toNat = run.toNat + 1 := by
  rw [BitVec.toNat_ofNat]
  omega

theorem one_le_of_run_ne_zero {run : BitVec 6} (h : run ≠ 0) : 1 ≤ run.toNat :=
  Nat.pos_of_ne_zero fun hzero => h (BitVec.eq_of_toNat_eq hzero)

/-- The count of a RUN is stored less one in the low six bits of its tag byte (R76). -/
theorem encode_run_succ (n : Nat) : encode (.run (n + 1)) = [BitVec.ofNat 8 (0xC0 + n)] := by
  have hvalue : (0xC0 + (((n + 1 : Nat) : Int) - 1)) = ((0xC0 + n : Nat) : Int) := by omega
  rw [encode, hvalue, BitVec.ofInt_natCast]

theorem flushRun_bytes (run : BitVec 6) :
    (flushRun run).flatMap encode =
      if run = 0 then [] else [BitVec.ofNat 8 (0xC0 + (run.toNat - 1))] := by
  unfold flushRun
  split_ifs with hzero
  · rfl
  · obtain ⟨n, hn⟩ := Nat.exists_eq_add_of_le' (one_le_of_run_ne_zero hzero)
    rw [List.flatMap_singleton, hn, encode_run_succ, Nat.add_sub_cancel]

/-- A count of 62, which no state between two pixels has, could still be flushed (R76, R153). -/
theorem flushRun_wf_of_le {run : BitVec 6} (h : run.toNat ≤ 62) : ∀ i ∈ flushRun run, i.wf = true := by
  unfold flushRun
  split_ifs with hzero
  · nofun
  · exact List.forall_mem_singleton.2 (run_wf (one_le_of_run_ne_zero hzero) h)

/-! ### The state after some pixels of the stream -/

/-- The state after `n` more pixels whose opcodes have the bytes `bs` and leave the registers `e`. -/
def State.afterPixels (bs : List Byte) (e : EncRegs) (n : Nat) (s : State) : State :=
  { (s.emit bs).setEncRegs e with pxi := s.pxi + n }

/-- One encoder step is `afterPixels` of one pixel, where the packers take its opcodes (R151). -/
theorem encoderStep_of_pack {s : State} {p : Pixel} {r : List Instr × EncRegs} {bs : List Byte}
    (hread : s.pixMem.readPixel s.pxi = some p)
    (hr : encodePixel s.cfg (s.pxi + 1 == s.pixelCount) p s.encRegs = r)
    (hpack : packAll r.1 = .ok bs) : encoderStep s = .next (s.afterPixels bs r.2 1) := by
  subst hr
  simp only [encoderStep, hread, hpack]
  rfl

/-- Opcodes in the packers' ranges are emitted as their encodings (R130, R151). -/
theorem step_encodes {s : State} {p : Pixel} {r : List Instr × EncRegs} (hs : s.Encoding)
    (hpxi : s.pxi < s.pixelCount) (hread : s.pixMem.readPixel s.pxi = some p)
    (hr : encodePixel s.cfg (s.pxi + 1 == s.pixelCount) p s.encRegs = r)
    (hwf : ∀ i ∈ r.1, i.wf = true) :
    step s = .next (s.afterPixels (r.1.flatMap encode) r.2 1) := by
  rw [step_encoding hs, if_pos hpxi, encoderStep_of_pack hread hr (packAll_ok hwf)]

/-- Settles O25: the two outcomes of the run path. -/
theorem runPathCountsOrEmits : Obligations.RunPathCountsOrEmits := by
  intro s hs hpxi hread hrun
  have hlast : (s.pxi + 1 == s.pixelCount) = true ↔ s.pxi = s.pixelCount - 1 := by
    rw [beq_iff_eq]
    omega
  have hpixel := encodePixel_repeat s.cfg (s.pxi + 1 == s.pixelCount) s.encRegs
  refine ⟨fun hends => ?_, fun hgoes => ?_⟩
  · have hr := hpixel.trans (if_pos (hends.imp_right hlast.2))
    have hwf : (Instr.run (s.runCount.toNat + 1)).wf = true := run_wf_iff.2 (by omega)
    refine (step_encodes hs hpxi hread hr (List.forall_mem_singleton.2 hwf)).trans ?_
    rw [List.flatMap_singleton, encode_run_succ]
    rfl
  · have hr := hpixel.trans (if_neg (hgoes ∘ Or.imp_right hlast.1))
    exact step_encodes hs hpxi hread hr (by simp)

/-- Settles O26: the opcodes of a pixel unlike PREV are the flushed run and the selected one. -/
theorem encoderEmitsFlushThenOpcode : Obligations.EncoderEmitsFlushThenOpcode := by
  rintro s p bs hs hpxi hread hne hrun rfl
  have hselected := selectOpcode_wf s.cfg s.prev s.cache p
  have hwf : ∀ i ∈ flushRun s.runCount ++ [selectOpcode s.cfg s.prev s.cache p], i.wf = true := by
    simpa [or_imp, forall_and, hselected] using flushRun_wf_of_le hrun
  refine ⟨hselected, (step_encodes hs hpxi hread (encodePixel_of_ne _ _ hne) hwf).trans ?_⟩
  rw [← flushRun_bytes, List.flatMap_append, List.flatMap_singleton]
  rfl

/-- After a pixel PREV is the pixel, and the cache is as before or holds it (R152, R154, R155, R160). -/
theorem encodePixel_registers (cfg : Config.Params) (last : Bool) (p : Pixel) (e : EncRegs) :
    (encodePixel cfg last p e).2.prev = p ∧
      (p = e.prev → (encodePixel cfg last p e).2.cache = e.cache) ∧
      (p ≠ e.prev → (encodePixel cfg last p e).2.cache[pixelHash p] = p) := by
  by_cases hrep : p = e.prev
  · subst hrep
    rw [encodePixel_repeat]
    split_ifs <;> exact ⟨rfl, fun _ => rfl, absurd rfl⟩
  · rw [encodePixel_of_ne cfg last hrep, cacheAfter_eq_cacheStore]
    exact ⟨rfl, (absurd · hrep), fun _ => cacheStore_getElem_same _ p⟩

/-- Settles O27: every step that can be packed leaves `encodePixel`'s registers in `afterPixels`. -/
theorem prevIsThePixelAfterEveryEncoderStep : Obligations.PrevIsThePixelAfterEveryEncoderStep := by
  intro s p hs hpxi hread hrun
  obtain ⟨hprev, hrepeat, hother⟩ :=
    encodePixel_registers s.cfg (s.pxi + 1 == s.pixelCount) p s.encRegs
  exact ⟨_, step_encodes hs hpxi hread rfl (encodePixel_wf hrun), hprev, rfl, hs.1, hrepeat, hother,
    rfl, rfl⟩

end Sys2Proof.Machine
end

section
/-! PROOFS. The opcodes of a pixel sequence (43_encoder.md R152, R161, R163, R165): every pixel is counted
by exactly one opcode, which gives the bounds of the stream; two RUNs follow one another only where the
first is full; and what repeats of the start pixel encode to. -/

namespace Sys2Proof.Machine

/-! ### Every pixel is counted once (R161) -/

theorem opcodeCount_bounds {i : Instr} (hwf : i.wf = true) : 1 ≤ opcodeCount i ∧ opcodeCount i ≤ 62 := by
  cases i with
  | run n => exact run_wf_iff.1 hwf
  | _ => exact ⟨Nat.le_refl 1, show 1 ≤ 62 by decide⟩

theorem flushRun_count (run : BitVec 6) : ((flushRun run).map opcodeCount).sum = run.toNat := by
  unfold flushRun
  split_ifs with hzero
  · rw [hzero]
    rfl
  · exact Nat.add_zero _

/-- One pixel: RUNCNT stays at most 61 and is 0 after the last, and the opcodes emitted count the pixels
that were pending and this one, but for those pending still. -/
theorem encodePixel_counts (cfg : Config.Params) (last : Bool) (p : Pixel) {e : EncRegs}
    (hrun : e.run.toNat ≤ 61) :
    (encodePixel cfg last p e).2.run.toNat ≤ 61 ∧
      (last = true → (encodePixel cfg last p e).2.run = 0) ∧
      ((encodePixel cfg last p e).1.map opcodeCount).sum + (encodePixel cfg last p e).2.run.toNat =
        e.run.toNat + 1 := by
  obtain ⟨-, heq⟩ | ⟨hgoes, heq⟩ | heq := encodePixel_cases cfg last p e <;> rw [heq]
  · exact ⟨Nat.zero_le _, fun _ => rfl, rfl⟩
  · rw [← Bool.not_eq_true, runEnds_iff, not_or] at hgoes
    obtain ⟨hfull, hlast⟩ := hgoes
    have hcount := runCount_succ_toNat hrun
    refine ⟨?_, fun h => absurd h hlast, ?_⟩
    · dsimp only
      omega
    · simpa using hcount
  · refine ⟨Nat.zero_le _, fun _ => rfl, ?_⟩
    simp [flushRun_count, opcodeCount_selectOpcode]

theorem encodeOps_counts (cfg : Config.Params) {ps : List Pixel} {e : EncRegs}
    (hrun : e.run.toNat ≤ 61) (hpending : ps = [] → e.run = 0) :
    ((encodeOps cfg ps e).map opcodeCount).sum = e.run.toNat + ps.length := by
  induction ps generalizing e with
  | nil =>
    rw [hpending rfl]
    rfl
  | cons p rest ih =>
    obtain ⟨hrun', hlast, hcount⟩ := encodePixel_counts cfg rest.isEmpty p hrun
    rw [encodeOps, List.map_append, List.sum_append,
      ih hrun' fun hend => hlast (List.isEmpty_iff.2 hend), List.length_cons]
    omega

theorem encodeOps_wf (cfg : Config.Params) (ps : List Pixel) {e : EncRegs} (hrun : e.run.toNat ≤ 61) :
    ∀ i ∈ encodeOps cfg ps e, i.wf = true := by
  induction ps generalizing e with
  | nil => nofun
  | cons p rest ih =>
    have hpixel := encodePixel_wf (cfg := cfg) (last := rest.isEmpty) (p := p) hrun
    obtain ⟨hrun', -, -⟩ := encodePixel_counts cfg rest.isEmpty p hrun
    exact List.forall_mem_append.2 ⟨hpixel, ih hrun'⟩

/-! ### Two RUNs in a row (R165) -/

/-- Of two RUNs in a row the first is full. -/
def FullBeforeRun (i j : Instr) : Prop := ∀ n m, i = .run n → j = .run m → n = 62

/-- Within one pixel's opcodes, and up to those of the next pixel, if there is one: a RUN that is not full
is emitted at the last pixel, or flushed before an opcode that is no RUN. -/
theorem encodePixel_fullBeforeRun (cfg : Config.Params) (last : Bool) (p : Pixel) (e : EncRegs) :
    (encodePixel cfg last p e).1.IsChain FullBeforeRun ∧
      (last = false → ∀ i ∈ (encodePixel cfg last p e).1.getLast?, ∀ n, i = .run n → n = 62) := by
  obtain ⟨hends, heq⟩ | ⟨-, heq⟩ | heq := encodePixel_cases cfg last p e <;> rw [heq]
  · rw [runEnds_iff] at hends
    refine ⟨.singleton _, fun hlast => ?_⟩
    simpa [hlast] using hends
  · exact ⟨.nil, nofun⟩
  · refine ⟨?_, ?_⟩
    · unfold flushRun
      split_ifs <;> simp [FullBeforeRun, selectOpcode_ne_run]
    · simp [selectOpcode_ne_run]

theorem encodeOps_fullBeforeRun (cfg : Config.Params) (ps : List Pixel) (e : EncRegs) :
    (encodeOps cfg ps e).IsChain FullBeforeRun := by
  induction ps generalizing e with
  | nil => exact .nil
  | cons p rest ih =>
    obtain ⟨hpixel, hfull⟩ := encodePixel_fullBeforeRun cfg rest.isEmpty p e
    refine hpixel.append (ih _) fun i hi j hj n m hn _ => ?_
    cases rest with
    | nil => cases hj
    | cons q rest => exact hfull rfl i hi n hn

/-! ### The bounds (R165) -/

theorem encodeData_length (cfg : Config.Params) (ps : List Pixel) :
    (encodeData cfg ps).length = ((encodeOps cfg ps EncRegs.start).map Instr.length).sum := by
  simp only [encodeData, List.length_flatMap, encode_length]

theorem instr_length_pos (i : Instr) : 1 ≤ i.length := by
  cases i <;> simp [Instr.length]

/-- A sum over a list lies between its bounds for one element, as often as there are elements. -/
theorem sum_map_bounds {α : Type} {f : α → Nat} {lo hi : Nat} {l : List α}
    (h : ∀ a ∈ l, lo ≤ f a ∧ f a ≤ hi) :
    l.length * lo ≤ (l.map f).sum ∧ (l.map f).sum ≤ l.length * hi := by
  have hlow := List.card_nsmul_le_sum (l.map f) lo (List.forall_mem_map.2 fun a ha => (h a ha).1)
  have hhigh := List.sum_le_card_nsmul (l.map f) hi (List.forall_mem_map.2 fun a ha => (h a ha).2)
  rw [List.length_map, smul_eq_mul] at hlow hhigh
  exact ⟨hlow, hhigh⟩

/-- Settles O28: an opcode counts 1 to 62 pixels and has 1 to 5 bytes, and the counts add up. -/
theorem encodedStreamBounds : Obligations.EncodedStreamBounds := by
  rintro cfg ps ops rfl
  have hrun : EncRegs.start.run.toNat ≤ 61 := by decide
  have hwf := encodeOps_wf cfg ps hrun
  have hcount : ((encodeOps cfg ps EncRegs.start).map opcodeCount).sum = ps.length :=
    (encodeOps_counts cfg hrun fun _ => rfl).trans (Nat.zero_add _)
  obtain ⟨hcountLow, hcountHigh⟩ := sum_map_bounds fun i hi => opcodeCount_bounds (hwf i hi)
  obtain ⟨hbytesLow, hbytesHigh⟩ := sum_map_bounds (l := encodeOps cfg ps EncRegs.start)
    fun i _ => ⟨instr_length_pos i, instr_length_le i⟩
  rw [hcount] at hcountLow hcountHigh
  rw [← encodeData_length] at hbytesLow hbytesHigh
  refine ⟨by omega, by omega, by omega, hwf, hcount, fun j n m hj hj' => ?_⟩
  obtain ⟨_, hn⟩ := List.getElem?_eq_some_iff.1 hj
  obtain ⟨hlt, hm⟩ := List.getElem?_eq_some_iff.1 hj'
  exact List.isChain_iff_getElem.1 (encodeOps_fullBeforeRun cfg ps EncRegs.start) j hlt n m hn hm

/-! ### Repeats of PREV (R152) -/

/-- The RUNs of `n` repeats: full ones as often as 62 fits, and one for the rest. -/
def runsOf (n : Nat) : List Instr :=
  List.replicate (n / 62) (.run 62) ++ if n % 62 = 0 then [] else [.run (n % 62)]

theorem runsOf_add_max (n : Nat) : runsOf (n + 62) = .run 62 :: runsOf n := by
  simp [runsOf, List.replicate_succ]

theorem runsOf_of_lt {n : Nat} (hpos : 0 < n) (hlt : n < 62) : runsOf n = [.run n] := by
  simp [runsOf, Nat.div_eq_of_lt hlt, Nat.mod_eq_of_lt hlt, Nat.ne_of_gt hpos]

/-- Repeats of PREV after some that are pending encode to the RUNs of all of them. -/
theorem encodeOps_replicate (cfg : Config.Params) (n : Nat) {e : EncRegs} (hrun : e.run.toNat ≤ 61)
    (hpending : n = 0 → e.run = 0) :
    encodeOps cfg (List.replicate n e.prev) e = runsOf (e.run.toNat + n) := by
  induction n generalizing e with
  | zero =>
    rw [hpending rfl]
    rfl
  | succ n ih =>
    rw [List.replicate_succ, encodeOps, encodePixel_repeat]
    by_cases hfull : e.run.toNat + 1 = 62
    · have hrest := ih (e := { e with run := 0 }) (Nat.zero_le _) fun _ => rfl
      have hsum : e.run.toNat + (n + 1) = 0 + n + 62 := by omega
      rw [if_pos (.inl hfull), hrest, hfull, hsum, runsOf_add_max]
      rfl
    · cases n with
      | zero =>
        rw [if_pos (.inr rfl), runsOf_of_lt (Nat.succ_pos _) (by omega)]
        rfl
      | succ n =>
        have hcount := runCount_succ_toNat hrun
        have hrest := ih (e := { e with run := BitVec.ofNat 6 (e.run.toNat + 1) })
          (hcount.trans_le (by omega)) nofun
        have hsum : e.run.toNat + (n + 1 + 1) = e.run.toNat + 1 + (n + 1) := by omega
        rw [if_neg (by simp [hfull, List.replicate_succ]), hrest, hcount, hsum]
        rfl

/-- Settles O29: the start pixel is PREV, and nothing is pending, at the start of a pass. -/
theorem startPixelRunsEncode : Obligations.StartPixelRunsEncode := fun cfg n =>
  (encodeOps_replicate cfg n (e := EncRegs.start) (by decide) fun _ => rfl).trans
    (congrArg runsOf (Nat.zero_add n))

end Sys2Proof.Machine
end

section
/-! PROOFS. The opcode stream does not read the header registers but for N (R150, R180): each operation of
a step of the stream commutes with a write of the header registers. -/

namespace Sys2Proof.Machine

theorem State.produceN_setHeader (h : Header) (p : Pixel) (n : Nat) (s : State) :
    (s.setHeader h).produceN p n = (s.produceN p n).setHeader h := by
  induction n generalizing s with
  | zero => rfl
  | succ n ih => exact ih (s.produce p)

theorem State.completeOpcode_setHeader (h : Header) (len : Nat) (p : Pixel) (n : Nat) (s : State) :
    (s.setHeader h).completeOpcode len p n = (s.completeOpcode len p n).setHeader h := by
  rw [State.completeOpcode, State.produceN_setHeader]
  rfl

theorem State.fetch_setHeader (h : Header) (s : State) : (s.setHeader h).fetch = s.fetch := rfl

/-- A step of the stream that takes no fault is taken alike from the state with the other header: its guards
read the header through N only. -/
theorem PassStep.step_setHeader {s t : State} (hstep : PassStep s t) (hphase : s.phase = .stream)
    (hok : t.status ≠ .fault) {h : Header} (hN : h.pixelCount = s.pixelCount) :
    step (s.setHeader h) = .next (t.setHeader h) := by
  have hcount : (s.setHeader h).pixelCount = s.pixelCount := hN
  cases hstep with
  | raise c => exact absurd (State.raise_status c s) hok
  | badEndMarker _ _ hframing | frameEncode _ hframing | frameDecode _ hframing =>
    cases hphase.symm.trans hframing
  | encodePixel hs hpxi hread hr hpack =>
    rw [step_encoding (s := s.setHeader h) hs, State.setHeader_pxi, hcount, if_pos hpxi]
    exact encoderStep_of_pack hread (hcount.symm ▸ hr) hpack
  | closeEncode hs hpxi =>
    rw [step_encoding (s := s.setHeader h) hs, State.setHeader_pxi, hcount, if_neg hpxi]
    rfl
  | execOpcode hs hpxo hfetch hfit =>
    rw [step_decoding (s := s.setHeader h) hs, decoderStep, State.setHeader_pxo, hcount, if_neg hpxo,
      State.fetch_setHeader, hfetch]
    refine (exec_completes _ (s.setHeader h) (hcount.symm ▸ hfit)).trans ?_
    rw [State.completeOpcode_setHeader]
    rfl
  | finishDecode hs hpxo hiptr =>
    rw [step_decoding (s := s.setHeader h) hs, decoderStep, State.setHeader_pxo, hcount, if_pos hpxo]
    exact if_pos hiptr

/-- Settles O53, by the inversion of a step of a running pass. -/
theorem streamIgnoresTheHeaderButN : Obligations.StreamIgnoresTheHeaderButN :=
  fun _ _ _ hbusy hphase hN hstep hok => (step_busy hbusy hstep).step_setHeader hphase hok hN

end Sys2Proof.Machine
end

section
/-! PROOFS. The encode pass computes `encodeImage` (R163, R210, D27): the host's commands, the framing, one
step a pixel and the closing, each what the function computes at that point. -/

namespace Sys2Proof.Machine

/-! ### Runs of the machine -/

theorem core_run_next (M : Host.Core) {s t : M.State} (h : M.step s = .next t) (k : Nat) :
    M.run (k + 1) s = M.run k t := by
  rw [Host.Core.run, h]

theorem core_run_refused (M : Host.Core) {s : M.State} {r : M.Refusal} (h : M.step s = .refused r)
    (k : Nat) : M.run (k + 1) s = .refused r := by
  rw [Host.Core.run, h]

theorem run_refused {s : State} {r : Refusal} (h : step s = .refused r) (k : Nat) :
    Sys2Proof.core.run (k + 1) s = .refused r :=
  core_run_refused Sys2Proof.core h k

theorem run_next {s t : State} (h : step s = .next t) (k : Nat) :
    Sys2Proof.core.run (k + 1) s = Sys2Proof.core.run k t :=
  core_run_next Sys2Proof.core h k

/-- While no pass runs, a step takes the oldest host command (R261, R263). -/
theorem run_hostCmd {s : State} {c : HostCmd} {q : List HostCmd} (hbusy : s.status ≠ .busy)
    (hq : s.hostq = c :: q) (k : Nat) :
    Sys2Proof.core.run (k + 1) s = Sys2Proof.core.run k (hostAct c { s with hostq := q }) :=
  run_next ((step_not_busy hbusy).trans (hostStep_cons hq)) k

/-! ### Bytes appended to OUT -/

theorem Memory.writeBytes_append (m : Memory) (a : Nat) (bs cs : List Byte) :
    m.writeBytes a (bs ++ cs) = (m.writeBytes a bs).writeBytes (a + bs.length) cs := by
  induction bs generalizing m a with
  | nil => rfl
  | cons b bs ih => simpa [Memory.writeBytes, Nat.add_assoc, Nat.add_comm 1] using ih (m.write a b) (a + 1)

theorem Memory.writeBytes_nil (bs : List Byte) : Memory.writeBytes [] 0 bs = Memory.ofBytes bs := by
  refine Memory.eq_of_read_eq (Memory.wf_writeBytes 0 bs Memory.wf_nil) (Memory.wf_ofBytes bs) fun a => ?_
  rw [Memory.read_writeBytes, Memory.read_ofBytes]
  split_ifs with hin
  · rfl
  · exact (List.getElem?_eq_none (by omega)).symm

/-- Pixels after pixels are pixels of one longer sequence. -/
theorem State.afterPixels_afterPixels (bs cs : List Byte) (e e' : EncRegs) (n m : Nat) (s : State) :
    (s.afterPixels bs e n).afterPixels cs e' m = s.afterPixels (bs ++ cs) e' (n + m) := by
  rw [State.mk.injEq]
  simp [State.afterPixels, Memory.writeBytes_append, Nat.add_assoc]

/-! ### The stream: one step a pixel (R163) -/

/-- From a state whose next pixels, up to the last, are `ps`, one step each emits their opcodes. -/
theorem run_encodeOps {s : State} {ps : List Pixel} (hs : s.Encoding)
    (hread : ∀ i p, ps[i]? = some p → s.pixMem.readPixel (s.pxi + i) = some p)
    (hend : s.pxi + ps.length = s.pixelCount) (hrun : s.runCount.toNat ≤ 61) :
    ∃ e, ∀ k, Sys2Proof.core.run (ps.length + k) s =
      Sys2Proof.core.run k
        (s.afterPixels ((encodeOps s.cfg ps s.encRegs).flatMap encode) e ps.length) := by
  induction ps generalizing s with
  | nil => exact ⟨s.encRegs, fun k => by rw [List.length_nil, Nat.zero_add]; rfl⟩
  | cons p rest ih =>
    rw [List.length_cons] at hend
    have hlast : (s.pxi + 1 == s.pixelCount) = rest.isEmpty := by
      rw [Bool.eq_iff_iff, beq_iff_eq, List.isEmpty_iff, ← List.length_eq_zero_iff]
      omega
    have hstep := step_encodes hs (by omega) (hread 0 p rfl)
      (congrArg (encodePixel s.cfg · p s.encRegs) hlast) (encodePixel_wf hrun)
    obtain ⟨hrun', -, -⟩ := encodePixel_counts s.cfg rest.isEmpty p (e := s.encRegs) hrun
    obtain ⟨e, hrest⟩ := ih (s := s.afterPixels _ (encodePixel s.cfg rest.isEmpty p s.encRegs).2 1) hs
      (fun i q hq => (congrArg _ (Nat.add_right_comm ..)).trans (hread (i + 1) q hq))
      ((Nat.add_right_comm ..).trans hend) hrun'
    refine ⟨e, fun k => ?_⟩
    rw [List.length_cons, Nat.add_right_comm, run_next hstep, hrest, State.afterPixels_afterPixels,
      Nat.add_comm 1, encodeOps, List.flatMap_append]
    rfl

/-! ### The framing (R210) -/

theorem encodeImage_done {cfg : Config.Params} {h : Header} {ps : List Pixel} {bs : List Byte}
    (hdone : encodeImage cfg h ps = .done bs) :
    ∃ hdr, encodeHeader cfg h = .ok hdr ∧ exceedsCapacity cfg h.pixelCount = false ∧
      ps.length = h.pixelCount ∧ bs = hdr ++ encodeData cfg ps ++ cfg.endMarker := by
  unfold encodeImage at hdone
  split at hdone
  · cases hdone
  · rename_i hdr hhdr
    split_ifs at hdone with hcap hlen
    cases hdone
    exact ⟨hdr, hhdr, Bool.not_eq_true _ ▸ hcap, not_not.1 hlen, rfl⟩

theorem encodeFraming_of_fault {s : State} {ps : List Pixel} {c : FaultCause}
    (hlen : s.pixLen = ps.length) (hfault : encodeImage s.cfg s.header ps = .fault c) :
    encodeFraming s = .next (s.raise c) ∧ c.faultClass = .invalidInput := by
  unfold encodeImage at hfault
  split at hfault
  · rename_i herr
    cases hfault
    exact ⟨encodeFraming_of_header_error herr, encodeHeader_error_class herr⟩
  · rename_i hhdr
    split_ifs at hfault with hcap hne
    cases hfault
    have hlegal := (encodeHeader_ok hhdr).1
    exact ⟨encodeFraming_of_pixLen_ne hlegal (Bool.not_eq_true _ ▸ hcap) (hlen ▸ hne), rfl⟩

theorem encodeFraming_of_refused {s : State} {ps : List Pixel}
    (hrefused : encodeImage s.cfg s.header ps = .refused) : encodeFraming s = .refused .capacity := by
  unfold encodeImage at hrefused
  split at hrefused
  · cases hrefused
  · rename_i hhdr
    split_ifs at hrefused with hcap
    simp only [encodeFraming, hhdr]
    exact if_pos hcap

theorem encodeFraming_of_ok {s : State} {hdr : List Byte} (hhdr : encodeHeader s.cfg s.header = .ok hdr)
    (hcap : exceedsCapacity s.cfg s.pixelCount = false) (hlen : s.pixLen = s.pixelCount) :
    encodeFraming s = .next { s.emit hdr with phase := .stream } := by
  simp [encodeFraming, hhdr, hcap, hlen]

/-! ### The whole pass -/

/-- The state after the host wrote the header, placed the pixels and started an encode pass (R261, R263). -/
def State.startEncode (h : Header) (ps : List Pixel) (s : State) : State :=
  State.startPass .encode
    { s.setHeader h with pixMem := Memory.ofPixels ps, pixLen := ps.length, hostq := [] }

section Started

variable {s : State} {h : Header} {ps : List Pixel}

theorem run_startEncode (hbusy : s.status ≠ .busy)
    (hq : s.hostq =
      [.writeHeader h.width h.height h.channels h.colorSpace, .placePixels ps, .start .encode]) (k : Nat) :
    Sys2Proof.core.run (k + 3) s = Sys2Proof.core.run k (s.startEncode h ps) := by
  have hwrite := run_hostCmd hbusy hq (k + 2)
  have hplace := run_hostCmd (s := { s.setHeader h with hostq := [.placePixels ps, .start .encode] })
    hbusy rfl (k + 1)
  have hstart := run_hostCmd (s := { s.setHeader h with
    pixMem := Memory.ofPixels ps, pixLen := ps.length, hostq := [.start .encode] }) hbusy rfl k
  exact hwrite.trans (hplace.trans hstart)

theorem step_startEncode : step (s.startEncode h ps) = encodeFraming (s.startEncode h ps) :=
  step_encode_framing rfl rfl rfl

/-- The pass of an image that `encodeImage` codes: the framing, one step a pixel, and the closing. -/
theorem run_startEncode_done {bs : List Byte} (hdone : encodeImage s.cfg h ps = .done bs) :
    ∃ t : State, Sys2Proof.core.run (ps.length + 2) (s.startEncode h ps) = .next t ∧ t.status = .done ∧
      t.outMem = Memory.ofBytes bs ∧ t.optr = bs.length ∧ t.header = h ∧
      t.pixMem = Memory.ofPixels ps := by
  obtain ⟨hdr, hhdr, hcap, hlen, rfl⟩ := encodeImage_done hdone
  have hframing :=
    step_startEncode.trans (encodeFraming_of_ok (s := s.startEncode h ps) hhdr hcap hlen)
  obtain ⟨e, hstream⟩ := run_encodeOps (ps := ps)
    (s := { (s.startEncode h ps).emit hdr with phase := .stream }) ⟨rfl, rfl, rfl⟩
    (fun i p hp => (congrArg _ (Nat.zero_add i)).trans (Memory.readPixel_ofPixels ps i p hp))
    ((Nat.zero_add _).trans hlen) (Nat.zero_le _)
  have hclosing := (step_encoding (s := State.afterPixels (encodeData s.cfg ps) e ps.length
    { (s.startEncode h ps).emit hdr with phase := .stream }) ⟨rfl, rfl, rfl⟩).trans
      (if_neg (Nat.not_lt.2 (((Nat.zero_add _).trans hlen).ge)))
  refine ⟨_, (run_next hframing (ps.length + 1)).trans ((hstream 1).trans (run_next hclosing 0)),
    rfl, ?_, ?_, rfl, rfl⟩
  · rw [← Memory.writeBytes_nil, Memory.writeBytes_append, Memory.writeBytes_append, List.length_append,
      ← Nat.add_assoc]
    rfl
  · rw [List.length_append, List.length_append, ← Nat.zero_add hdr.length]
    rfl

end Started

/-- Settles O35: the host's three commands, then the framing, which decides as `encodeImage` does, and the
pass of an image that is coded. -/
theorem encodePassComputesEncodeImage : Obligations.EncodePassComputesEncodeImage := by
  intro s h ps hbusy hq
  have hstart := run_startEncode hbusy hq
  refine ⟨fun bs hdone => ?_, fun c hfault => ?_, fun hrefused => ?_⟩
  · obtain ⟨t, hrun, ht⟩ := run_startEncode_done hdone
    exact ⟨t, (hstart (ps.length + 2)).trans hrun, ht⟩
  · obtain ⟨hframing, hclass⟩ := encodeFraming_of_fault (s := s.startEncode h ps) rfl hfault
    refine ⟨_, (hstart 1).trans (run_next (step_startEncode.trans hframing) 0), ?_⟩
    exact ⟨State.raise_status .., hclass ▸ State.raise_fclass .., State.raise_fcause ..⟩
  · have hframing := encodeFraming_of_refused (s := s.startEncode h ps) hrefused
    exact (hstart 1).trans (run_refused (step_startEncode.trans hframing) 0)

end Sys2Proof.Machine
end

section
/-! PROOFS. The six opcodes (44_decoder.md R183 to R189): each is completed with its pixel, by the law
`exec_completes`; a RUN past the pixel count takes its fault; and the sums modulo 256 of DIFF and LUMA. -/

namespace Sys2Proof.Machine

/-- An opcode that produces a pixel and is no overlong RUN has its whole effect and no other. -/
theorem exec_effect {i : Instr} {s : State} (hfit : ∀ n, i = .run n → s.pxo + n ≤ s.pixelCount)
    (hcount : 0 < opcodeCount i) :
    ∃ t, exec i s = .next t ∧
      OpcodeEffect i.length (opcodePixel i ⟨s.prev, s.cache⟩) (opcodeCount i) s t :=
  ⟨_, exec_completes i s hfit, State.completeOpcode_effect _ _ _ s hcount⟩

/-- Settles O12: the pixel of RGB has PREV's alpha. -/
theorem rgbCompletes : Obligations.RgbCompletes := fun r g b _ =>
  exec_effect (i := .rgb r g b) nofun Nat.one_pos

/-- Settles O13: the pixel of RGBA is its payload. -/
theorem rgbaCompletes : Obligations.RgbaCompletes := fun r g b a _ =>
  exec_effect (i := .rgba r g b a) nofun Nat.one_pos

/-- Settles O14: the pixel of INDEX is the slot's. -/
theorem indexCompletes : Obligations.IndexCompletes := fun k _ =>
  exec_effect (i := .index k) nofun Nat.one_pos

/-- A channel's sum is reduced modulo 256 (R186, D6). -/
theorem addDelta_toNat (c : Byte) (d : Int) :
    ((addDelta c d).toNat : Int) = ((c.toNat : Int) + d) % 256 := by
  rw [addDelta, BitVec.toNat_add, BitVec.toNat_ofInt]
  omega

/-- Settles O15: each channel of `diffPixel` is such a sum. -/
theorem diffCompletes : Obligations.DiffCompletes := by
  intro dr dg db s
  obtain ⟨t, hexec, heffect⟩ := exec_effect (i := .diff dr dg db) (s := s) nofun Nat.one_pos
  exact ⟨t, _, hexec, heffect, addDelta_toNat .., addDelta_toNat .., addDelta_toNat .., rfl⟩

/-- Settles O16: red and blue of `lumaPixel` add the green delta and their cross delta at once. -/
theorem lumaCompletes : Obligations.LumaCompletes := by
  intro dg drg dbg s
  obtain ⟨t, hexec, heffect⟩ := exec_effect (i := .luma dg drg dbg) (s := s) nofun Nat.one_pos
  refine ⟨t, _, hexec, heffect, ?_, addDelta_toNat .., ?_, rfl⟩
  · rw [add_assoc]
    exact addDelta_toNat ..
  · rw [add_assoc]
    exact addDelta_toNat ..

/-- Settles O17: a well-formed RUN repeats PREV at least once. -/
theorem runCompletes : Obligations.RunCompletes := by
  intro n s hwf hfit
  refine exec_effect (i := .run n) ?_ (run_wf_iff.1 hwf).1
  rintro _ ⟨⟩
  exact hfit

/-- What a fault of class FormatError leaves in a decode pass (R236, R237). -/
theorem State.raise_formatError {s : State} {c : FaultCause} (hmode : s.mode = .decode)
    (hclass : c.faultClass = .formatError) :
    (s.raise c).status = .fault ∧ (s.raise c).fclass = some .formatError ∧
      (s.raise c).fcause = some c ∧ (s.raise c).pixMem = [] ∧ (s.raise c).pixLen = 0 :=
  ⟨s.raise_status c, hclass ▸ s.raise_fclass c, s.raise_fcause c, (s.raise_decode c hmode).2⟩

/-- Settles O18: the overrun is tested before RUN has any effect. -/
theorem runOverrunTakesItsFault : Obligations.RunOverrunTakesItsFault := by
  intro n s hmode hover
  obtain ⟨hstatus, hclass, hcause, hpix, hlen⟩ :=
    State.raise_formatError (c := .runOverrun) hmode rfl
  exact ⟨_, exec_run_overrun n s hover, hstatus, hclass, hcause, hpix, hlen, s.raise_inMem _,
    s.raise_inLen _, (s.raise_decode _ hmode).1, s.raise_hostq _, s.raise_cfg _⟩

/-- Settles O19: a completed opcode leaves its pixel in PREV and stores it in the cache. -/
theorem postUpdateFollowsEveryOpcode : Obligations.PostUpdateFollowsEveryOpcode := by
  intro i s _ hfit
  refine ⟨_, exec_completes i s hfit, State.completeOpcode_prev .., ?_⟩
  simp only [State.completeOpcode_prev, State.completeOpcode_cache]
  exact ⟨cacheStore_getElem_same .., fun k hk => cacheStore_getElem_of_ne hk⟩

end Sys2Proof.Machine
end

section
/-! PROOFS. The decoder's step (44_decoder.md R181, R182, R190, R191): what a fetch finds in the bytes
left of the stream, and how the step follows it. -/

namespace Sys2Proof.Machine

/-! ### The fetch -/

/-- The bytes of a decoded opcode begin with its tag byte, whose length is theirs. -/
theorem State.StreamHolds.fetch_opcode {s : State} {bs : List Byte} {i : Instr} (h : s.StreamHolds bs)
    (hdecode : decode bs = .ok (i, [])) : s.fetch = .opcode i := by
  obtain ⟨b0, more, rfl, -, hlen⟩ := decode_ok_length hdecode
  obtain ⟨hinside, hread⟩ := h
  have htag : s.inMem.read (streamOffset s.iptr) = some b0 := by
    simp only [List.length_cons, Memory.readBytes, Option.bind_eq_some_iff, Option.map_eq_some_iff] at hread
    obtain ⟨b, hb, _, _, heq⟩ := hread
    rw [hb, (List.cons.inj heq).1]
  rw [List.length_nil, Nat.add_zero] at hlen
  have hpos := oplen_pos b0
  rw [hlen] at hinside hread
  rw [State.fetch, if_neg (by omega)]
  simp only [htag, if_neg (Nat.not_lt.2 hinside), hread, hdecode]

/-- The stream ends at IPTR, or inside the opcode there (R190). -/
def State.StreamCut (s : State) : Prop :=
  s.iptr = s.streamLen ∨
    ∃ b0, s.iptr < s.streamLen ∧ s.inMem.read (streamOffset s.iptr) = some b0 ∧
      s.streamLen < s.iptr + oplen b0

theorem State.StreamCut.fetch_truncated {s : State} (h : s.StreamCut) : s.fetch = .truncated := by
  rw [State.fetch]
  obtain hend | ⟨b0, hlt, htag, hcut⟩ := h
  · rw [if_pos hend]
  · simp only [if_neg hlt.ne, htag, if_pos hcut]

/-! ### The step -/

section Decoding

variable {s : State} (hs : s.Decoding)
include hs

theorem step_end_done (hpxo : s.pxo = s.pixelCount) (hend : s.iptr = s.streamLen) :
    step s = .next s.finish := by
  rw [step_decoding hs, decoderStep, if_pos hpxo, if_pos hend]

theorem step_end_trailing (hpxo : s.pxo = s.pixelCount) (hmore : s.iptr ≠ s.streamLen) :
    step s = .next (s.raise .trailingBytes) := by
  rw [step_decoding hs, decoderStep, if_pos hpxo, if_neg hmore]

theorem step_truncated (hpxo : s.pxo ≠ s.pixelCount) (hcut : s.StreamCut) :
    step s = .next (s.raise .truncatedStream) := by
  rw [step_decoding hs, decoderStep, if_neg hpxo, hcut.fetch_truncated]

theorem step_exec (hpxo : s.pxo ≠ s.pixelCount) {bs : List Byte} {i : Instr}
    (hdecode : decode bs = .ok (i, [])) (hbytes : s.StreamHolds bs) : step s = exec i s := by
  rw [step_decoding hs, decoderStep, if_neg hpxo, hbytes.fetch_opcode hdecode]

end Decoding

/-- Settles O20: the fetch finds the opcode, and the step executes it. -/
theorem stepRunsTheDecodedOpcode : Obligations.StepRunsTheDecodedOpcode :=
  fun _ _ _ hs hpxo hdecode hbytes => step_exec hs hpxo hdecode hbytes

/-- Settles O21: the fetch finds the stream cut, which is a fault of class FormatError. -/
theorem truncatedStreamTakesItsFault : Obligations.TruncatedStreamTakesItsFault :=
  fun _ hs hpxo hcut =>
    ⟨_, step_truncated hs hpxo.ne hcut, State.raise_formatError hs.2.1 rfl⟩

/-- Settles O22: the two ends of a pass, by the stream's length. -/
theorem endTestDecidesThePass : Obligations.EndTestDecidesThePass := by
  intro s hs hpxo
  exact ⟨fun hend => ⟨_, step_end_done hs hpxo hend, rfl, rfl, rfl, rfl⟩,
    fun hmore => ⟨_, step_end_trailing hs hpxo hmore, State.raise_formatError hs.2.1 rfl⟩⟩

/-- Settles O23: only an executed opcode leaves the pass BUSY, and what decodes has 1 to 5 bytes and
produces 1 to 62 pixels. -/
theorem decoderStepMakesProgress : Obligations.DecoderStepMakesProgress := by
  intro s t hs hstep hbusy
  cases step_busy hs.1 hstep with
  | @execOpcode i _ _ hfetch _ =>
    obtain ⟨_, _, _, _, _, _, hdecode⟩ := State.fetch_opcode hfetch
    obtain ⟨hcountLow, hcountHigh⟩ := opcodeCount_bounds (encodeInvertsDecode _ _ _ hdecode).1
    have hlenLow := instr_length_pos i
    have hlenHigh := instr_length_le i
    simp only [State.completeOpcode_iptr, State.completeOpcode_pxo]
    omega
  | raise c => cases (State.raise_status c s).symm.trans hbusy
  | badEndMarker _ _ hframing | frameEncode _ hframing | frameDecode _ hframing =>
    cases hs.2.2.symm.trans hframing
  | encodePixel henc | closeEncode henc => cases hs.2.1.symm.trans henc.2.1
  | finishDecode => cases hbusy

end Sys2Proof.Machine
end

section
/-! PROOFS. `decodeData` (44_decoder.md R192) one opcode at a time, by what `decode` says of the bytes; that
it is total (R191), and that it inverts `encodeData` (R193) by the registers' lock step (R123). -/

namespace Sys2Proof.Machine

/-! ### The loop of `decodeData`, one opcode at a time -/

theorem decodeFrom_done (bs : List Byte) (prev : Pixel) (x : Cache) :
    decodeFrom bs prev x 0 = if bs = [] then .ok [] else .error .trailingBytes := by
  cases bs with
  | nil => rfl
  | cons b0 more =>
    rw [decodeFrom.eq_def]
    rfl

/-- Pixels are due and no whole opcode is left (R190). -/
theorem decodeFrom_truncated {bs : List Byte} {err : DecodeError} (h : decode bs = .error err)
    (prev : Pixel) (x : Cache) {need : Nat} (hneed : need ≠ 0) :
    decodeFrom bs prev x need = .error .truncatedStream := by
  cases bs with
  | nil => simp [decodeFrom, hneed]
  | cons b0 more =>
    rw [decodeFrom.eq_def]
    dsimp only [decode] at h ⊢
    rw [if_neg hneed]
    split_ifs at h with hrgb hrgba
    · rw [if_pos hrgb]
      match more, h with
      | [], _ | [_], _ | [_, _], _ => rfl
      | _ :: _ :: _ :: _, h => cases h
    · rw [if_neg hrgb, if_pos hrgba]
      match more, h with
      | [], _ | [_], _ | [_, _], _ | [_, _, _], _ => rfl
      | _ :: _ :: _ :: _ :: _, h => cases h
    · rw [if_neg hrgb, if_neg hrgba]
      obtain htop | htop | htop | htop := bits_top_cases b0 <;> rw [htop] at h ⊢
      · cases h
      · cases h
      · match more, h with
        | [], _ => rfl
        | _ :: _, h => cases h
      · cases h

/-- Pixels are due and an opcode is there: its pixels come first, unless it is an overlong RUN (R188). -/
theorem decodeFrom_opcode {bs rest : List Byte} {i : Instr} (h : decode bs = .ok (i, rest))
    (d : DecRegs) {need : Nat} (hneed : need ≠ 0) :
    decodeFrom bs d.prev d.cache need =
      if need < opcodeCount i then .error .runOverrun
      else (decodeFrom rest (d.after i).prev (d.after i).cache (need - opcodeCount i)).map
        (List.replicate (opcodeCount i) (opcodePixel i d) ++ ·) := by
  have hone : ¬ need < 1 := by omega
  obtain ⟨b0, more, rfl, -, -⟩ := decode_ok_length h
  rw [decodeFrom.eq_def]
  dsimp only
  rw [if_neg hneed]
  cases decodesTo_of_decode h with
  | rgb r g b => exact (if_neg hone).symm
  | rgba r g b a => exact (if_neg hone).symm
  | index hhigh =>
    obtain ⟨hrgb, hrgba⟩ := ne_literal_tags (b := b0) (by omega)
    have htop : bits b0 7 6 = 0 := by rw [bits_top]; omega
    rw [if_neg hrgb, if_neg hrgba, htop]
    exact (if_neg hone).symm
  | diff hlow hhigh =>
    obtain ⟨hrgb, hrgba⟩ := ne_literal_tags (b := b0) (by omega)
    have htop : bits b0 7 6 = 1 := by rw [bits_top]; omega
    rw [if_neg hrgb, if_neg hrgba, htop]
    exact (if_neg hone).symm
  | luma hlow hhigh b1 =>
    obtain ⟨hrgb, hrgba⟩ := ne_literal_tags (b := b0) (by omega)
    have htop : bits b0 7 6 = 2 := by rw [bits_top]; omega
    rw [if_neg hrgb, if_neg hrgba, htop]
    exact (if_neg hone).symm
  | run hlow hhigh =>
    obtain ⟨hrgb, hrgba⟩ := ne_literal_tags hhigh
    have htop : bits b0 7 6 = 3 := by rw [bits_top]; omega
    rw [if_neg hrgb, if_neg hrgba, htop]
    rfl

/-! ### The decoder is total (R191) -/

/-- An answer of the decoder that R191 allows where `need` pixels are due. -/
def StreamAnswer (need : Nat) (r : Except FaultCause (List Pixel)) : Prop :=
  (∃ ps, r = .ok ps ∧ ps.length = need) ∨
    r = .error .truncatedStream ∨ r = .error .trailingBytes ∨ r = .error .runOverrun

/-- Pixels before an answer of the rest make an answer of the whole. -/
theorem StreamAnswer.prepend {need : Nat} {r : Except FaultCause (List Pixel)} (h : StreamAnswer need r)
    (qs : List Pixel) : StreamAnswer (qs.length + need) (r.map (qs ++ ·)) := by
  obtain ⟨ps, rfl, hlen⟩ | rfl | rfl | rfl := h
  · exact .inl ⟨qs ++ ps, rfl, by rw [List.length_append, hlen]⟩
  · exact .inr (.inl rfl)
  · exact .inr (.inr (.inl rfl))
  · exact .inr (.inr (.inr rfl))

theorem decode_rest_length_lt {bs rest : List Byte} {i : Instr} (h : decode bs = .ok (i, rest)) :
    rest.length < bs.length := by
  obtain ⟨b0, _, _, _, hlen⟩ := decode_ok_length h
  have hpos := oplen_pos b0
  omega

theorem decodeFrom_answers (bs : List Byte) (d : DecRegs) (need : Nat) :
    StreamAnswer need (decodeFrom bs d.prev d.cache need) := by
  by_cases hneed : need = 0
  · subst hneed
    rw [decodeFrom_done]
    split_ifs
    · exact .inl ⟨[], rfl, rfl⟩
    · exact .inr (.inr (.inl rfl))
  · cases hdecode : decode bs with
    | error err =>
      rw [decodeFrom_truncated hdecode _ _ hneed]
      exact .inr (.inl rfl)
    | ok found =>
      obtain ⟨i, rest⟩ := found
      have hshorter := decode_rest_length_lt hdecode
      rw [decodeFrom_opcode hdecode d hneed]
      split_ifs with hover
      · exact .inr (.inr (.inr rfl))
      · have hrest := (decodeFrom_answers rest (d.after i) (need - opcodeCount i)).prepend
          (List.replicate (opcodeCount i) (opcodePixel i d))
        rwa [List.length_replicate, Nat.add_sub_cancel' (Nat.not_lt.1 hover)] at hrest
termination_by bs.length

/-- Settles O32: the loop answers as R191 says from any registers. -/
theorem decodeDataIsTotal : Obligations.DecodeDataIsTotal := fun bs n _ =>
  decodeFrom_answers bs ⟨Config.startPixel, Vector.replicate 64 Config.zeroPixel⟩ n

/-! ### The pixels of a sequence of opcodes -/

/-- The pixels that opcodes produce in turn, from the decoder's registers. -/
def opcodePixels : List Instr → DecRegs → List Pixel
  | [], _ => []
  | i :: is, d => List.replicate (opcodeCount i) (opcodePixel i d) ++ opcodePixels is (d.after i)

theorem opcodePixels_append (is js : List Instr) (d : DecRegs) :
    opcodePixels (is ++ js) d = opcodePixels is d ++ opcodePixels js (is.foldl DecRegs.after d) := by
  induction is generalizing d with
  | nil => rfl
  | cons i is ih => simp [opcodePixels, ih]

/-- The encodings of opcodes that produce as many pixels as are due decode to those pixels. -/
theorem decodeFrom_encode {is : List Instr} (hwf : ∀ i ∈ is, i.wf = true) (d : DecRegs) :
    decodeFrom (is.flatMap encode) d.prev d.cache (is.map opcodeCount).sum =
      .ok (opcodePixels is d) := by
  induction is generalizing d with
  | nil => rfl
  | cons i is ih =>
    obtain ⟨hi, his⟩ := List.forall_mem_cons.1 hwf
    have hpos := (opcodeCount_bounds hi).1
    rw [List.flatMap_cons, List.map_cons, List.sum_cons,
      decodeFrom_opcode (decodeInvertsEncode i _ hi) d (by omega), if_neg (by omega),
      Nat.add_sub_cancel_left, ih his]
    rfl

/-! ### The opcodes of a pixel sequence produce it (R193) -/

theorem opcodePixels_flushRun (run : BitVec 6) (d : DecRegs) :
    opcodePixels (flushRun run) d = List.replicate run.toNat d.prev := by
  unfold flushRun
  split_ifs with hzero
  · rw [hzero]
    rfl
  · exact List.append_nil _

/-- One pixel's opcodes produce the repeats of PREV that were pending and the pixel, but for the repeats
still pending after it. -/
theorem opcodePixels_encodePixel (cfg : Config.Params) (last : Bool) (p : Pixel) {e : EncRegs}
    {d : DecRegs} (h : RegsAgree e d) (hrun : e.run.toNat ≤ 61) :
    opcodePixels (encodePixel cfg last p e).1 d ++
        List.replicate (encodePixel cfg last p e).2.run.toNat (encodePixel cfg last p e).2.prev =
      List.replicate e.run.toNat e.prev ++ [p] := by
  by_cases hrep : p = e.prev
  · subst hrep
    rw [encodePixel_repeat, ← List.replicate_succ']
    split_ifs
    · simp [opcodePixels, opcodeCount, opcodePixel, h.prev_eq]
    · simp [opcodePixels, runCount_succ_toNat hrun]
  · have hpixel := opcodePixel_selectOpcode cfg h.after_flushRun.prev_eq h.after_flushRun.slot_held (p := p)
    rw [encodePixel_of_ne cfg last hrep, opcodePixels_append, opcodePixels_flushRun, h.prev_eq]
    simp [opcodePixels, opcodeCount_selectOpcode, ← h.prev_eq, hpixel]

/-- The opcodes of a pixel sequence produce the repeats that were pending, then the sequence. -/
theorem opcodePixels_encodeOps (cfg : Config.Params) {ps : List Pixel} {e : EncRegs} {d : DecRegs}
    (h : RegsAgree e d) (hrun : e.run.toNat ≤ 61) (hpending : ps = [] → e.run = 0) :
    opcodePixels (encodeOps cfg ps e) d = List.replicate e.run.toNat e.prev ++ ps := by
  induction ps generalizing e d with
  | nil =>
    rw [hpending rfl]
    rfl
  | cons p rest ih =>
    obtain ⟨hrun', hlast, -⟩ := encodePixel_counts cfg rest.isEmpty p hrun
    have hpixel := opcodePixels_encodePixel cfg rest.isEmpty p h hrun
    rw [encodeOps, opcodePixels_append,
      ih (h.after_encodePixel cfg rest.isEmpty p) hrun' fun hend => hlast (List.isEmpty_iff.2 hend),
      ← List.append_assoc, hpixel, List.append_assoc, List.singleton_append]

/-- Settles O31: the opcodes count and produce the sequence's pixels. The converse fails at the stream
RGB 0,0,0, whose pixel is the start pixel, which encodes to RUN 1. -/
theorem decodeDataInvertsEncodeData : Obligations.DecodeDataInvertsEncodeData := by
  refine ⟨fun cfg ps _ => ?_, [0xFE, 0, 0, 0], 1, [Config.startPixel], Nat.le_refl 1, rfl, ?_⟩
  · have hrun : EncRegs.start.run.toNat ≤ 61 := by decide
    have hcount : ((encodeOps cfg ps EncRegs.start).map opcodeCount).sum = ps.length :=
      (encodeOps_counts cfg hrun fun _ => rfl).trans (Nat.zero_add _)
    have hpixels := opcodePixels_encodeOps cfg (ps := ps) regsAgree_start hrun fun _ => rfl
    have hdecoded := decodeFrom_encode (encodeOps_wf cfg ps hrun)
      ⟨Config.startPixel, Vector.replicate 64 Config.zeroPixel⟩
    rw [hcount, hpixels] at hdecoded
    exact hdecoded
  · have hrun : encodeData Config.Params.default [Config.startPixel] = [0xC0] := rfl
    rw [hrun]
    decide

end Sys2Proof.Machine
end

section
/-! PROOFS. The decode pass computes `decodeImage` (R192, R211, D27) within the bound of R191: the host's
commands, the framing, and one step an opcode, each what the function computes at that point. -/

namespace Sys2Proof.Machine

/-! ### How a decode pass ends -/

/-- The state that the end of a decode pass leaves: the results where it is done, the fault's registers
where it takes a fault. A refused pass leaves no state. -/
def State.EndsAs (t : State) : PassResult (Header × List Pixel) → Prop
  | .done (h, ps) =>
    t.status = .done ∧ t.header = h ∧ t.pixMem = Memory.ofPixels ps ∧ t.pixLen = ps.length
  | .fault c => t.status = .fault ∧ t.fclass = some .formatError ∧ t.fcause = some c
  | .refused => False

theorem State.raise_endsAs {c : FaultCause} (hclass : c.faultClass = .formatError) (s : State) :
    (s.raise c).EndsAs (.fault c) :=
  ⟨s.raise_status c, hclass ▸ s.raise_fclass c, s.raise_fcause c⟩

/-- Within `bound` steps the machine ends a decode pass as `r`. -/
def State.RunsTo (s : State) (bound : Nat) (r : PassResult (Header × List Pixel)) : Prop :=
  ∃ (k : Nat) (t : State), k ≤ bound ∧ Sys2Proof.core.run k s = .next t ∧ t.EndsAs r

section RunsTo

variable {s t : State} {bound : Nat} {r : PassResult (Header × List Pixel)}

/-- One step that ends the pass. -/
theorem State.RunsTo.of_step (hstep : step s = .next t) (hend : t.EndsAs r) : s.RunsTo (bound + 1) r :=
  ⟨1, t, Nat.le_add_left 1 bound, run_next hstep 0, hend⟩

/-- Steps before the end. -/
theorem State.RunsTo.after {j : Nat}
    (hrun : ∀ k, Sys2Proof.core.run (k + j) s = Sys2Proof.core.run k t) (h : t.RunsTo bound r) :
    s.RunsTo (bound + j) r := by
  obtain ⟨k, u, hk, hkrun, hend⟩ := h
  exact ⟨k + j, u, Nat.add_le_add_right hk j, (hrun k).trans hkrun, hend⟩

theorem State.RunsTo.mono {bound' : Nat} (h : s.RunsTo bound r) (hle : bound ≤ bound') :
    s.RunsTo bound' r := by
  obtain ⟨k, u, hk, hrest⟩ := h
  exact ⟨k, u, hk.trans hle, hrest⟩

end RunsTo

/-! ### The pixels produced (R13) -/

/-- PIX holds exactly these pixels, which are those the pass has produced. -/
def State.HasProduced (s : State) (qs : List Pixel) : Prop :=
  s.pixMem = Memory.ofPixels qs ∧ s.pxo = qs.length ∧ s.pixLen = qs.length

theorem Memory.ofBytes_append (bs cs : List Byte) :
    (Memory.ofBytes bs).writeBytes bs.length cs = Memory.ofBytes (bs ++ cs) := by
  rw [← Memory.writeBytes_nil, ← Memory.writeBytes_nil, Memory.writeBytes_append, Nat.zero_add]

theorem Memory.ofPixels_append (qs : List Pixel) (p : Pixel) :
    (Memory.ofPixels qs).writePixel qs.length p = Memory.ofPixels (qs ++ [p]) := by
  rw [Memory.ofPixels, Memory.ofPixels, Memory.writePixel, ← flatMap_pixelBytes_length,
    Memory.ofBytes_append, List.flatMap_append, List.flatMap_singleton]

theorem State.HasProduced.produceN {s : State} {qs : List Pixel} (h : s.HasProduced qs) (p : Pixel)
    (n : Nat) : (s.produceN p n).HasProduced (qs ++ List.replicate n p) := by
  induction n generalizing s qs with
  | zero =>
    rw [List.replicate_zero, List.append_nil]
    exact h
  | succ n ih =>
    obtain ⟨hpix, hpxo, -⟩ := h
    have hone : (s.produce p).HasProduced (qs ++ [p]) :=
      ⟨by rw [State.produce_pixMem, hpix, hpxo, Memory.ofPixels_append], by simp [hpxo], by simp [hpxo]⟩
    rw [List.replicate_succ, ← List.singleton_append, ← List.append_assoc]
    exact ih hone

/-! ### The bytes left of the stream (R211) -/

/-- The bytes of the stream from IPTR to its end. -/
def State.StreamLeft (s : State) (bs : List Byte) : Prop :=
  s.iptr + bs.length = s.streamLen ∧
    ∀ j, j < bs.length → s.inMem.read (streamOffset s.iptr + j) = bs[j]?

section StreamLeft

variable {s : State} {bs rest : List Byte}

theorem State.StreamLeft.end_iff (h : s.StreamLeft bs) : s.iptr = s.streamLen ↔ bs = [] := by
  obtain ⟨hlen, -⟩ := h
  rw [← List.length_eq_zero_iff]
  omega

/-- The front of the bytes left lies whole inside the stream. -/
theorem State.StreamLeft.front (h : s.StreamLeft (bs ++ rest)) : s.StreamHolds bs := by
  obtain ⟨hlen, hread⟩ := h
  rw [List.length_append] at hlen hread
  refine ⟨by omega, Memory.readBytes_eq_some _ _ _ fun j hj => ?_⟩
  rw [hread j (by omega), List.getElem?_append_left hj]

/-- What is left once IPTR has passed the front. -/
theorem State.StreamLeft.advance {t : State} (h : s.StreamLeft (bs ++ rest))
    (hiptr : t.iptr = s.iptr + bs.length) (hlen : t.streamLen = s.streamLen) (hmem : t.inMem = s.inMem) :
    t.StreamLeft rest := by
  obtain ⟨hend, hread⟩ := h
  rw [List.length_append] at hend hread
  refine ⟨by omega, fun j hj => ?_⟩
  have hoffset : streamOffset t.iptr + j = streamOffset s.iptr + (bs.length + j) := by
    simp only [streamOffset, hiptr]
    omega
  rw [hmem, hoffset, hread _ (by omega), List.getElem?_append_right (Nat.le_add_right ..),
    Nat.add_sub_cancel_left]

/-- Bytes that do not decode are too few: with all the bytes its tag byte asks, an opcode decodes. -/
theorem decode_error_short {b0 : Byte} {more : List Byte} {err : DecodeError}
    (h : decode (b0 :: more) = .error err) : (b0 :: more).length < oplen b0 := by
  by_contra hlong
  have hpos := oplen_pos b0
  rw [List.length_cons] at hlong
  have hfront : (b0 :: more.take (oplen b0 - 1)).length = oplen b0 := by
    rw [List.length_cons, List.length_take]
    omega
  obtain ⟨i, hi, -⟩ := decode_whole b0 _ hfront
  obtain ⟨hwf, hbytes⟩ := encodeInvertsDecode _ _ _ hi
  have hsplit : b0 :: more = encode i ++ more.drop (oplen b0 - 1) := by
    rw [← List.append_nil (encode i), hbytes, List.cons_append, List.take_append_drop]
  rw [hsplit, decodeInvertsEncode i _ hwf] at h
  cases h

theorem State.StreamLeft.cut {err : DecodeError} (h : s.StreamLeft bs) (hdecode : decode bs = .error err) :
    s.StreamCut := by
  cases bs with
  | nil => exact .inl (h.end_iff.2 rfl)
  | cons b0 more =>
    have hshort := decode_error_short hdecode
    obtain ⟨hlen, hread⟩ := h
    rw [List.length_cons] at hshort hlen
    exact .inr ⟨b0, by omega, hread 0 (Nat.succ_pos _), by omega⟩

end StreamLeft

/-! ### The stream: one step an opcode (R192) -/

/-- The end of a pass that has produced `qs` when the loop of `decodeData` answers for the rest. -/
def streamResult (h : Header) (qs : List Pixel) :
    Except FaultCause (List Pixel) → PassResult (Header × List Pixel)
  | .ok ps => .done (h, qs ++ ps)
  | .error c => .fault c

theorem streamResult_map (h : Header) (qs rs : List Pixel) (r : Except FaultCause (List Pixel)) :
    streamResult h qs (r.map (rs ++ ·)) = streamResult h (qs ++ rs) r := by
  cases r with
  | error c => rfl
  | ok ps => simp [Except.map, streamResult]

/-- The decoder's registers of a state. -/
def State.decRegs (s : State) : DecRegs := ⟨s.prev, s.cache⟩

/-- The state after an opcode that is no overlong RUN (R181 to R189). -/
def State.afterOpcode (i : Instr) (s : State) : State :=
  s.completeOpcode i.length (opcodePixel i s.decRegs) (opcodeCount i)

section AfterOpcode

variable (i : Instr) {s : State}

theorem State.afterOpcode_decRegs : (s.afterOpcode i).decRegs = s.decRegs.after i := by
  simp [State.afterOpcode, State.decRegs, DecRegs.after]

theorem State.afterOpcode_header : (s.afterOpcode i).header = s.header := by
  simp [State.afterOpcode, State.header]

theorem State.afterOpcode_pixelCount : (s.afterOpcode i).pixelCount = s.pixelCount := by
  simp [State.afterOpcode, State.pixelCount]

theorem State.Decoding.afterOpcode (hs : s.Decoding) : (s.afterOpcode i).Decoding := by
  simpa [State.afterOpcode, State.Decoding] using hs

theorem State.HasProduced.afterOpcode {qs : List Pixel} (h : s.HasProduced qs) :
    (s.afterOpcode i).HasProduced
      (qs ++ List.replicate (opcodeCount i) (opcodePixel i s.decRegs)) :=
  h.produceN _ _

end AfterOpcode

/-- Where an opcode decodes from the bytes left, the next step executes it, and completing it leaves the
bytes after it. -/
theorem State.StreamLeft.opcode {s : State} {bs rest : List Byte} {i : Instr} (h : s.StreamLeft bs)
    (hdecode : decode bs = .ok (i, rest)) (hs : s.Decoding) (hdue : s.pxo ≠ s.pixelCount) :
    step s = exec i s ∧ (s.afterOpcode i).StreamLeft rest := by
  obtain ⟨hwf, rfl⟩ := encodeInvertsDecode _ _ _ hdecode
  have hfront : decode (encode i) = .ok (i, []) := by simpa using decodeInvertsEncode i [] hwf
  refine ⟨step_exec hs hdue hfront h.front, h.advance ?_ ?_ ?_⟩
  · simp [State.afterOpcode, encode_length]
  · simp [State.afterOpcode, State.streamLen]
  · simp [State.afterOpcode]

/-- An opcode that is no RUN produces one pixel, so where pixels are due only a RUN can overrun. -/
theorem eq_run_of_lt_opcodeCount {i : Instr} {need : Nat} (hneed : need ≠ 0)
    (hover : need < opcodeCount i) : i = .run (opcodeCount i) := by
  cases i with
  | run n => rfl
  | _ => exact absurd hover (Nat.not_lt.2 (Nat.pos_of_ne_zero hneed))

/-- From a state in the stream, with `bs` left and `need` pixels due, the machine ends the pass as the
loop of `decodeData` does, with one step an opcode and one for the end. -/
theorem run_decodeFrom {s : State} {qs : List Pixel} {bs : List Byte} {need : Nat} (hs : s.Decoding)
    (hleft : s.StreamLeft bs) (hpix : s.HasProduced qs) (hneed : qs.length + need = s.pixelCount) :
    s.RunsTo (bs.length + 1) (streamResult s.header qs (decodeFrom bs s.prev s.cache need)) := by
  obtain ⟨hmem, hpxo, hlen⟩ := id hpix
  by_cases hzero : need = 0
  · subst hzero
    have hend : s.pxo = s.pixelCount := hpxo.trans hneed
    rw [decodeFrom_done]
    split_ifs with hnil
    · refine .of_step (step_end_done hs hend (hleft.end_iff.2 hnil)) ⟨rfl, rfl, ?_, ?_⟩
      · rw [List.append_nil]
        exact hmem
      · rw [List.append_nil]
        exact hlen
    · exact .of_step (step_end_trailing hs hend (mt hleft.end_iff.1 hnil)) (State.raise_endsAs rfl _)
  have hdue : s.pxo ≠ s.pixelCount := by omega
  cases hdecode : decode bs with
  | error err =>
    rw [decodeFrom_truncated hdecode _ _ hzero]
    exact .of_step (step_truncated hs hdue (hleft.cut hdecode)) (State.raise_endsAs rfl _)
  | ok found =>
    obtain ⟨i, rest⟩ := found
    obtain ⟨hstep, hrest⟩ := hleft.opcode hdecode hs hdue
    have hshorter := decode_rest_length_lt hdecode
    have hloop : decodeFrom bs s.prev s.cache need = _ := decodeFrom_opcode hdecode s.decRegs hzero
    rw [hloop]
    split_ifs with hover
    · have hfault := exec_run_overrun (opcodeCount i) s (by omega)
      rw [← eq_run_of_lt_opcodeCount hzero hover] at hfault
      exact .of_step (hstep.trans hfault) (State.raise_endsAs rfl _)
    · have hfit : ∀ n, i = .run n → s.pxo + n ≤ s.pixelCount := by
        rintro n rfl
        have : n ≤ need := Nat.not_lt.1 hover
        omega
      have hcount : (qs ++ List.replicate (opcodeCount i) (opcodePixel i s.decRegs)).length +
          (need - opcodeCount i) = (s.afterOpcode i).pixelCount := by
        rw [List.length_append, List.length_replicate, State.afterOpcode_pixelCount]
        omega
      have hloopRest := run_decodeFrom (hs.afterOpcode i) hrest (hpix.afterOpcode i) hcount
      rw [State.afterOpcode_header] at hloopRest
      rw [streamResult_map, ← State.afterOpcode_decRegs]
      exact (hloopRest.after (j := 1) (run_next (hstep.trans (exec_completes i s hfit)))).mono (by omega)
termination_by bs.length

/-! ### The framing (R211 to R213) -/

theorem decodeHeader_error_class {cfg : Config.Params} {hb : List Byte} {c : FaultCause}
    (herr : decodeHeader cfg hb = .error c) : c.faultClass = .formatError := by
  unfold decodeHeader at herr
  split at herr
  · split_ifs at herr <;> cases herr <;> rfl
  · cases herr
    rfl

theorem decodeFraming_of_short {s : State} (hshort : s.inLen < Config.headerLen + s.cfg.endLen) :
    decodeFraming s = .next (s.raise .badLength) :=
  if_pos hshort

section Framing

variable {s : State} {hb : List Byte} {h : Header} (hlong : Config.headerLen + s.cfg.endLen ≤ s.inLen)
  (hhb : s.inMem.readBytes 0 Config.headerLen = some hb)
include hlong hhb

theorem decodeFraming_of_header_error {c : FaultCause} (herr : decodeHeader s.cfg hb = .error c) :
    decodeFraming s = .next (s.raise c) := by
  simp [decodeFraming, Nat.not_lt.2 hlong, hhb, herr]

variable (hok : decodeHeader s.cfg hb = .ok h)
include hok

theorem decodeFraming_of_exceeds (hcap : exceedsCapacity s.cfg h.pixelCount = true) :
    decodeFraming s = .refused .capacity := by
  simp [decodeFraming, Nat.not_lt.2 hlong, hhb, hok, hcap]

variable {trl : List Byte} (hcap : ¬ exceedsCapacity s.cfg h.pixelCount = true)
  (htrl : s.inMem.readBytes (s.inLen - s.cfg.endLen) s.cfg.endLen = some trl)
include hcap htrl

theorem decodeFraming_of_wrong_marker (hne : trl ≠ s.cfg.endMarker) :
    decodeFraming s = .next ((s.setHeader h).raise .badEndMarker) := by
  simp [decodeFraming, Nat.not_lt.2 hlong, hhb, hok, hcap, htrl, hne]

theorem decodeFraming_of_accepted (heq : trl = s.cfg.endMarker) :
    decodeFraming s = .next { s.setHeader h with phase := .stream } := by
  simp [decodeFraming, Nat.not_lt.2 hlong, hhb, hok, hcap, htrl, heq]

end Framing

/-- The bytes of a container the host placed, read back (R52). -/
theorem Memory.readBytes_ofBytes {bs : List Byte} {a n : Nat} (h : a + n ≤ bs.length) :
    (Memory.ofBytes bs).readBytes a n = some ((bs.drop a).take n) := by
  have hlen : ((bs.drop a).take n).length = n := by
    rw [List.length_take, List.length_drop]
    omega
  have hread := Memory.readBytes_eq_some (Memory.ofBytes bs) a ((bs.drop a).take n) fun j hj => by
    rw [Memory.read_ofBytes, List.getElem?_take_of_lt (hlen ▸ hj), List.getElem?_drop]
  rwa [hlen] at hread

/-- The opcode stream of a container: what lies between the header and the end marker (R212). -/
def containerStream (cfg : Config.Params) (bs : List Byte) : List Byte :=
  (bs.drop Config.headerLen).take (bs.length - Config.headerLen - cfg.endLen)

section Image

variable {cfg : Config.Params} {bs : List Byte} {h : Header}

theorem decodeImage_of_short (hshort : bs.length < Config.headerLen + cfg.endLen) :
    decodeImage cfg bs = .fault .badLength :=
  if_pos hshort

variable (hlong : Config.headerLen + cfg.endLen ≤ bs.length)
include hlong

theorem decodeImage_of_header_error {c : FaultCause}
    (herr : decodeHeader cfg (bs.take Config.headerLen) = .error c) : decodeImage cfg bs = .fault c := by
  simp only [decodeImage, if_neg (Nat.not_lt.2 hlong), herr]

variable (hok : decodeHeader cfg (bs.take Config.headerLen) = .ok h)
include hok

theorem decodeImage_of_exceeds (hcap : exceedsCapacity cfg h.pixelCount = true) :
    decodeImage cfg bs = .refused := by
  simp only [decodeImage, if_neg (Nat.not_lt.2 hlong), hok, if_pos hcap]

variable (hcap : ¬ exceedsCapacity cfg h.pixelCount = true)
include hcap

theorem decodeImage_of_wrong_marker (hne : bs.drop (bs.length - cfg.endLen) ≠ cfg.endMarker) :
    decodeImage cfg bs = .fault .badEndMarker := by
  simp only [decodeImage, if_neg (Nat.not_lt.2 hlong), hok, if_neg hcap, if_pos hne]

theorem decodeImage_of_accepted (heq : bs.drop (bs.length - cfg.endLen) = cfg.endMarker) :
    decodeImage cfg bs =
      streamResult h [] (decodeData (containerStream cfg bs) h.pixelCount) := by
  simp only [decodeImage, if_neg (Nat.not_lt.2 hlong), hok, if_neg hcap, if_neg (not_not.2 heq),
    containerStream]
  cases decodeData _ h.pixelCount <;> rfl

end Image

/-- The state after the host placed a container and started a decode pass (R261, R263). -/
def State.startDecode (bs : List Byte) (s : State) : State :=
  State.startPass .decode { s with inMem := Memory.ofBytes bs, inLen := bs.length, hostq := [] }

section Started

variable {s : State} {bs : List Byte}

theorem run_startDecode (hbusy : s.status ≠ .busy) (hq : s.hostq = [.placeInput bs, .start .decode])
    (k : Nat) : Sys2Proof.core.run (k + 2) s = Sys2Proof.core.run k (s.startDecode bs) := by
  have hplace := run_hostCmd hbusy hq (k + 1)
  have hstart := run_hostCmd (s := { s with
    inMem := Memory.ofBytes bs, inLen := bs.length, hostq := [.start .decode] }) hbusy rfl k
  exact hplace.trans hstart

theorem step_startDecode : step (s.startDecode bs) = decodeFraming (s.startDecode bs) :=
  step_decode_framing rfl rfl rfl

/-- The stream of an accepted container, from its framing on. -/
theorem runsTo_of_framed {h : Header}
    (hframing : step (s.startDecode bs) = .next { (s.startDecode bs).setHeader h with phase := .stream }) :
    (s.startDecode bs).RunsTo (bs.length - 14 - s.cfg.endLen + 2)
      (streamResult h [] (decodeData (containerStream s.cfg bs) h.pixelCount)) := by
  have hlen : (containerStream s.cfg bs).length = bs.length - 14 - s.cfg.endLen := by
    rw [containerStream, List.length_take, List.length_drop]
    exact Nat.min_eq_left (Nat.sub_le ..)
  have hleft : State.StreamLeft { (s.startDecode bs).setHeader h with phase := .stream }
      (containerStream s.cfg bs) := by
    refine ⟨(Nat.zero_add _).trans hlen, fun j hj => ?_⟩
    refine (Memory.read_ofBytes ..).trans ?_
    rw [hlen] at hj
    rw [containerStream, List.getElem?_take_of_lt hj, List.getElem?_drop]
    rfl
  have hstream := run_decodeFrom (qs := []) (need := h.pixelCount) ⟨rfl, rfl, rfl⟩ hleft
    ⟨rfl, rfl, rfl⟩ (Nat.zero_add _)
  rw [hlen] at hstream
  exact hstream.after (j := 1) (run_next hframing)

/-- The framing and the stream end the pass as `decodeImage` does, or the framing refuses it. -/
theorem startDecode_runsTo :
    (decodeImage s.cfg bs = .refused ∧ step (s.startDecode bs) = .refused .capacity) ∨
      (s.startDecode bs).RunsTo (bs.length - 14 - s.cfg.endLen + 2) (decodeImage s.cfg bs) := by
  by_cases hshort : bs.length < Config.headerLen + s.cfg.endLen
  · rw [decodeImage_of_short hshort]
    exact .inr (.of_step (step_startDecode.trans (decodeFraming_of_short hshort))
      (State.raise_endsAs rfl _))
  have hlong := Nat.not_lt.1 hshort
  have hhb : (s.startDecode bs).inMem.readBytes 0 Config.headerLen = some (bs.take Config.headerLen) :=
    Memory.readBytes_ofBytes (by omega)
  have htrl : (s.startDecode bs).inMem.readBytes (bs.length - s.cfg.endLen) s.cfg.endLen =
      some (bs.drop (bs.length - s.cfg.endLen)) := by
    refine (Memory.readBytes_ofBytes (by omega)).trans (congrArg some (List.take_of_length_le ?_))
    rw [List.length_drop]
    omega
  cases hheader : decodeHeader s.cfg (bs.take Config.headerLen) with
  | error c =>
    rw [decodeImage_of_header_error hlong hheader]
    exact .inr (.of_step (step_startDecode.trans (decodeFraming_of_header_error hlong hhb hheader))
      (State.raise_endsAs (decodeHeader_error_class hheader) _))
  | ok h =>
    by_cases hcap : exceedsCapacity s.cfg h.pixelCount = true
    · exact .inl ⟨decodeImage_of_exceeds hlong hheader hcap,
        step_startDecode.trans (decodeFraming_of_exceeds hlong hhb hheader hcap)⟩
    by_cases hmarker : bs.drop (bs.length - s.cfg.endLen) = s.cfg.endMarker
    · have hframing := decodeFraming_of_accepted hlong hhb hheader hcap htrl hmarker
      rw [decodeImage_of_accepted hlong hheader hcap hmarker]
      exact .inr (runsTo_of_framed (step_startDecode.trans hframing))
    · rw [decodeImage_of_wrong_marker hlong hheader hcap hmarker]
      exact .inr (.of_step
        (step_startDecode.trans (decodeFraming_of_wrong_marker hlong hhb hheader hcap htrl hmarker))
        (State.raise_endsAs rfl _))

end Started

/-- Settles O36: the host's two commands, then the framing and the stream. -/
theorem decodePassComputesDecodeImage : Obligations.DecodePassComputesDecodeImage := by
  intro s bs hbusy hq
  have hstart := run_startDecode hbusy hq
  obtain ⟨hrefused, hstep⟩ | hpass := startDecode_runsTo (s := s) (bs := bs)
  · rw [hrefused]
    exact ⟨nofun, nofun, fun _ => (hstart 1).trans (run_refused hstep 0)⟩
  · obtain ⟨k, t, hk, hrun, hend⟩ := hpass.after hstart
    refine ⟨fun h ps hdone => ?_, fun c hfault => ?_, fun hrefused => ?_⟩
    · rw [hdone] at hend
      exact ⟨k, t, by omega, hrun, hend⟩
    · rw [hfault] at hend
      exact ⟨k, t, by omega, hrun, hend⟩
    · rw [hrefused] at hend
      exact hend.elim

end Sys2Proof.Machine
end

section
/-! PROOFS. The container (45_container_layout.md R210 to R213, R218): what the framing of either pass and the
closing of an encode pass do to the state, and that `decodeImage` undoes `encodeImage`. -/

namespace Sys2Proof.Machine

/-! ### The bytes an encode pass appends around its stream (R210) -/

/-- OUT after `emit`: the bytes at the old OPTR, and every other byte as before (R13). -/
theorem State.emit_appends (bs : List Byte) (s : State) :
    (s.emit bs).outMem.readBytes s.optr bs.length = some bs ∧
      ∀ a, a < s.optr ∨ s.optr + bs.length ≤ a → (s.emit bs).outMem.read a = s.outMem.read a :=
  ⟨Memory.readBytes_writeBytes .., fun a ha => Memory.read_writeBytes_outside _ _ a bs ha⟩

/-- Settles O37: the framing emits the header, which has 14 bytes. -/
theorem encodeFramingWritesTheHeader : Obligations.EncodeFramingWritesTheHeader := by
  intro s hbusy hmode hphase hlegal hcap hlen
  obtain ⟨hdr, hhdr, hhdrLen, -⟩ := (headerRoundTrip s.cfg).1 s.header hlegal
  have hstep := (step_encode_framing hbusy hmode hphase).trans (encodeFraming_of_ok hhdr hcap hlen)
  obtain ⟨hread, hframe⟩ := s.emit_appends hdr
  rw [hhdrLen] at hread hframe
  refine ⟨_, hdr, hhdr, hstep, ?_, hread, hframe⟩
  rw [← hhdrLen]
  rfl

/-- Settles O39: the closing emits the end marker, and the end of the pass leaves the results. -/
theorem encodeClosingAppendsTheEndMarker : Obligations.EncodeClosingAppendsTheEndMarker := by
  intro s hs hpxi
  obtain ⟨hread, hframe⟩ := s.emit_appends s.cfg.endMarker
  exact ⟨_, (step_encoding hs).trans (if_neg (Nat.not_lt.2 hpxi.ge)), rfl, rfl, hread, hframe, rfl, rfl,
    rfl⟩

/-! ### The checks of a decode pass (R211 to R213) -/

/-- Settles O40: the clauses follow the branches of the framing. -/
theorem decodeFramingChecksInOrder : Obligations.DecodeFramingChecksInOrder := by
  intro s hbusy hmode hphase
  rw [step_decode_framing hbusy hmode hphase]
  refine ⟨fun hshort => ?_, fun hb trl hlong hhb htrl => ⟨fun c herr => ?_, fun h hok hcap => ?_⟩⟩
  · exact ⟨_, decodeFraming_of_short hshort, State.raise_endsAs rfl _⟩
  · exact ⟨_, decodeFraming_of_header_error hlong hhb herr,
      State.raise_endsAs (decodeHeader_error_class herr) _⟩
  · have hadmits := Bool.eq_false_iff.1 hcap
    exact ⟨fun hne => ⟨_, decodeFraming_of_wrong_marker hlong hhb hok hadmits htrl hne,
        State.raise_endsAs rfl _⟩,
      decodeFraming_of_accepted hlong hhb hok hadmits htrl⟩

/-! ### The round trip (R218) -/

/-- A legal header describes at least one pixel (R24, R101). -/
theorem Header.pixelCount_pos {h : Header} (hlegal : h.legal = true) : 1 ≤ h.pixelCount := by
  obtain ⟨-, -, hw, hh⟩ := h.legal_iff.1 hlegal
  exact Nat.mul_pos (Nat.pos_of_ne_zero (BitVec.toNat_ne.1 hw)) (Nat.pos_of_ne_zero (BitVec.toNat_ne.1 hh))

section Container

variable {cfg : Config.Params} {hdr body : List Byte} (hhdrLen : hdr.length = Config.headerLen)
include hhdrLen

theorem container_length :
    (hdr ++ body ++ cfg.endMarker).length = Config.headerLen + body.length + cfg.endLen := by
  rw [List.length_append, List.length_append, hhdrLen]

/-- The partition by length finds the stream between the header and the end marker (R212). -/
theorem containerStream_append : containerStream cfg (hdr ++ body ++ cfg.endMarker) = body := by
  have hlen : (hdr ++ body ++ cfg.endMarker).length - Config.headerLen - cfg.endLen = body.length := by
    rw [container_length hhdrLen]
    omega
  rw [containerStream, hlen, List.append_assoc, List.drop_left' hhdrLen, List.take_left]

/-- A container whose header is accepted and whose end marker is right answers what its stream decodes to. -/
theorem decodeImage_container {h : Header} (hok : decodeHeader cfg hdr = .ok h)
    (hcap : exceedsCapacity cfg h.pixelCount = false) :
    decodeImage cfg (hdr ++ body ++ cfg.endMarker) = streamResult h [] (decodeData body h.pixelCount) := by
  have hlong : Config.headerLen + cfg.endLen ≤ (hdr ++ body ++ cfg.endMarker).length := by
    rw [container_length hhdrLen]
    omega
  have hheader : decodeHeader cfg ((hdr ++ body ++ cfg.endMarker).take Config.headerLen) = .ok h := by
    rwa [List.append_assoc, List.take_left' hhdrLen]
  have hmarker : (hdr ++ body ++ cfg.endMarker).drop
      ((hdr ++ body ++ cfg.endMarker).length - cfg.endLen) = cfg.endMarker :=
    List.drop_left' (by rw [List.length_append (bs := cfg.endMarker), Nat.add_sub_cancel])
  rw [decodeImage_of_accepted hlong hheader (Bool.eq_false_iff.1 hcap) hmarker,
    containerStream_append hhdrLen]

end Container

theorem encodeImage_of_ok {cfg : Config.Params} {h : Header} {ps : List Pixel} {hdr : List Byte}
    (hok : encodeHeader cfg h = .ok hdr) (hcap : exceedsCapacity cfg h.pixelCount = false)
    (hlen : ps.length = h.pixelCount) :
    encodeImage cfg h ps = .done (hdr ++ encodeData cfg ps ++ cfg.endMarker) := by
  simp [encodeImage, hok, hcap, hlen]

/-- Settles O33: the round trips of the header (O6) and of the stream (O31), on the parts the container is
cut into. -/
theorem decodeImageInvertsEncodeImage : Obligations.DecodeImageInvertsEncodeImage := by
  intro cfg h ps hlegal hlen hcap
  obtain ⟨hdr, hok, hhdrLen, hdecode⟩ := (headerRoundTrip cfg).1 h hlegal
  have hstream := decodeDataInvertsEncodeData.1 cfg ps (hlen ▸ Header.pixelCount_pos hlegal)
  refine ⟨_, encodeImage_of_ok hok hcap hlen, ?_⟩
  rw [decodeImage_container hhdrLen hdecode hcap, ← hlen, hstream]
  rfl

/-- Settles O34, by running the encoder on the two images. -/
theorem sourceExamplesEncode : Obligations.SourceExamplesEncode := ⟨rfl, rfl⟩

end Sys2Proof.Machine
end

section
/-! PROOFS. The ways a pass ends early (60_exceptions.md R230 to R243): what `raise` leaves, the tables of the
causes, and the refusal of a pass of more than MAX_PIXELS pixels, which only the framing of either mode can
give. -/

namespace Sys2Proof.Machine

/-! ### Faults (R230 to R239) -/

/-- Settles O42: after a fault no pass runs, so the step is the host's turn, which an empty queue leaves
without effect. -/
theorem raiseEndsThePass : Obligations.RaiseEndsThePass := by
  intro c s
  refine ⟨s.raise_fclass c, s.raise_fcause c, s.raise_status c, s.raise_mode c, s.raise_cfg c,
    s.raise_inMem c, s.raise_inLen c, s.raise_hostq c, fun hq => ?_⟩
  have hbusy : (s.raise c).status ≠ .busy := by simp
  exact (step_not_busy hbusy).trans (hostStep_nil ((s.raise_hostq c).trans hq))

/-- Settles O43: the classes and the numbers compute to the entries of the tables. -/
theorem causeNumbersAreTheTables : Obligations.CauseNumbersAreTheTables := ⟨rfl, rfl, rfl, rfl⟩

/-! ### The capacity (R101, R243) -/

/-- No image exceeds a build without MAX_PIXELS (R243). -/
theorem exceedsCapacity_unbounded {cfg : Config.Params} (h : cfg.maxPixels = none) (n : Nat) :
    exceedsCapacity cfg n = false := by
  simp [exceedsCapacity, h]

theorem encodeFraming_of_exceeds {s : State} (hlegal : s.header.legal = true)
    (hcap : exceedsCapacity s.cfg s.pixelCount = true) : encodeFraming s = .refused .capacity := by
  simp [encodeFraming, encodeHeader_of_legal hlegal, hcap]

/-- The encoder's framing refuses nothing but an image that exceeds the capacity (R210). -/
theorem exceeds_of_encodeFraming_refused {s : State} (h : encodeFraming s = .refused .capacity) :
    exceedsCapacity s.cfg s.pixelCount = true := by
  unfold encodeFraming at h
  split at h
  · cases h
  · split_ifs at h with hcap
    exact hcap

/-- The decoder's framing refuses nothing but an image that exceeds the capacity (R211). -/
theorem exceeds_of_decodeFraming_refused {s : State} (h : decodeFraming s = .refused .capacity) :
    ∃ hdr : Header, exceedsCapacity s.cfg hdr.pixelCount = true := by
  unfold decodeFraming at h
  split at h
  · cases h
  split at h
  · cases h
  split at h
  · cases h
  · rename_i hdr _
    split at h
    · exact ⟨hdr, ‹_›⟩
    split at h
    · cases h
    split at h <;> cases h

/-- The only refusal of an encoder step is for opcodes that do not pack (R151, log 23). -/
theorem encoderStep_ne_capacity (s : State) : encoderStep s ≠ .refused .capacity := by
  unfold encoderStep
  split
  · nofun
  · dsimp only
    split <;> nofun

/-- The only refusal of a decoder step is for bytes that do not decode (R181, R240). -/
theorem decoderStep_ne_capacity (s : State) : decoderStep s ≠ .refused .capacity := by
  unfold decoderStep
  split_ifs
  · nofun
  · nofun
  · cases s.fetch with
    | opcode i =>
      obtain ⟨t, ht⟩ := exec_next i s
      simp [ht]
    | truncated | unwritten _ | undecoded => nofun

/-- Of a step's branches only the two framings can refuse for capacity. -/
theorem exceeds_of_step_refused {s : State} (h : step s = .refused .capacity) :
    ∃ n, exceedsCapacity s.cfg n = true := by
  by_cases hbusy : s.status = .busy
  · cases hmode : s.mode <;> cases hphase : s.phase
    case encode.framing =>
      rw [step_encode_framing hbusy hmode hphase] at h
      exact ⟨_, exceeds_of_encodeFraming_refused h⟩
    case encode.stream =>
      rw [step_encoding ⟨hbusy, hmode, hphase⟩] at h
      split_ifs at h
      · exact absurd h (encoderStep_ne_capacity s)
      · cases h
    case decode.framing =>
      rw [step_decode_framing hbusy hmode hphase] at h
      obtain ⟨hdr, hcap⟩ := exceeds_of_decodeFraming_refused h
      exact ⟨_, hcap⟩
    case decode.stream =>
      rw [step_decoding ⟨hbusy, hmode, hphase⟩] at h
      exact absurd h (decoderStep_ne_capacity s)
  · obtain ⟨t, ht⟩ := hostStep_next s
    rw [step_not_busy hbusy, ht] at h
    cases h

/-- Settles O41: either framing tests the capacity once the header is accepted, and no other step refuses
for capacity. -/
theorem capacityIsRefused : Obligations.CapacityIsRefused := by
  refine ⟨fun s hbusy hmode hphase hlegal hcap => ?_,
    fun s hb h hbusy hmode hphase hlong hhb hok hcap => ?_, fun s hnone hrefused => ?_⟩
  · exact (step_encode_framing hbusy hmode hphase).trans (encodeFraming_of_exceeds hlegal hcap)
  · exact (step_decode_framing hbusy hmode hphase).trans (decodeFraming_of_exceeds hlong hhb hok hcap)
  · obtain ⟨n, hexceeds⟩ := exceeds_of_step_refused hrefused
    exact Bool.eq_false_iff.1 (exceedsCapacity_unbounded hnone n) hexceeds

end Sys2Proof.Machine
end

section
/-! PROOFS. The block between passes (70_reset_and_hazards.md R260 to R266): the step the host's oldest command
gives, what START loads, what the other commands place, and that nothing moves without one. -/

namespace Sys2Proof.Machine

/-- While no pass runs, one step takes the oldest host command (R261, R263). -/
theorem step_hostCmd {s : State} {c : HostCmd} {q : List HostCmd} (hbusy : s.status ≠ .busy)
    (hq : s.hostq = c :: q) : step s = .next (hostAct c { s with hostq := q }) :=
  (step_not_busy hbusy).trans (hostStep_cons hq)

/-! ### START (R261) -/

theorem State.startPass_atStart (m : Mode) (s : State) : (s.startPass m).AtStart := by
  simp [State.AtStart]

/-- Settles O44: a taken START is `startPass`, whose fields R35 and the buffers' rules give; a running pass
keeps the host's queue. -/
theorem startCommandLoadsThePass : Obligations.StartCommandLoadsThePass := by
  refine ⟨fun s m q hbusy hq => ?_, fun s t hbusy hstep => ?_⟩
  · obtain ⟨hencode, hdecode⟩ := State.startPass_buffers m { s with hostq := q }
    refine ⟨_, step_hostCmd hbusy hq, State.startPass_mode .., State.startPass_status ..,
      State.startPass_atStart .., State.startPass_fclass .., State.startPass_fcause ..,
      State.startPass_hostq .., State.startPass_cfg .., State.startPass_inMem .., State.startPass_inLen ..,
      fun hm => ?_, fun hm => ?_⟩
    · obtain ⟨hout, hpix, hlen, hheader⟩ := hencode hm
      exact ⟨hheader, hpix, hlen, hout⟩
    · obtain ⟨hout, hpix, hlen⟩ := hdecode hm
      exact ⟨hpix, hlen, hout⟩
  · obtain ⟨-, -, -, hqueue, -⟩ := (step_busy hbusy hstep).keeps_input
    exact hqueue

/-! ### The pixels the host places (R53, R263) -/

/-- Byte `k` of pixel `i` stands at offset `4 * i + k` (R53). -/
theorem Memory.read_ofPixels {ps : List Pixel} {i k : Nat} {p : Pixel} (hp : ps[i]? = some p)
    (hk : k < 4) : (Memory.ofPixels ps).read (4 * i + k) = (pixelBytes p)[k]? :=
  (Memory.read_ofBytes ..).trans (flatMap_pixelBytes_get ps i k p hp hk)

/-- No pixel reads where the first of its bytes holds no value. -/
theorem Memory.readPixel_of_read_none {m : Memory} {i : Nat} (h : m.read (4 * i) = none) :
    m.readPixel i = none := by
  simp [Memory.readPixel, Memory.readBytes, h]

/-- Exactly the placed pixels read back. -/
theorem Memory.readPixel_ofPixels_eq (ps : List Pixel) (i : Nat) :
    (Memory.ofPixels ps).readPixel i = ps[i]? := by
  cases hp : ps[i]? with
  | some p => exact Memory.readPixel_ofPixels ps i p hp
  | none =>
    have hbeyond : (ps.flatMap pixelBytes).length ≤ 4 * i := by
      rw [flatMap_pixelBytes_length]
      exact Nat.mul_le_mul_left 4 (List.getElem?_eq_none_iff.1 hp)
    exact Memory.readPixel_of_read_none
      ((Memory.read_ofBytes ..).trans (List.getElem?_eq_none hbeyond))

/-- Settles O45: each command is its `hostAct`; the buffers it fills read as the host gave them. -/
theorem hostPreparesThePass : Obligations.HostPreparesThePass := by
  intro s q hbusy
  refine ⟨fun w h ch cs hq => step_hostCmd hbusy hq, fun ps hq => ?_, fun bs hq => ?_⟩
  · refine ⟨_, step_hostCmd hbusy hq, rfl, Memory.wf_ofPixels ps, Memory.readPixel_ofPixels_eq ps,
      fun i p hp => ?_⟩
    have hbyte (k : Nat) (hk : k < 4) := Memory.read_ofPixels hp hk
    exact ⟨hbyte 0 (by decide), hbyte 1 (by decide), hbyte 2 (by decide), hbyte 3 (by decide)⟩
  · exact ⟨_, step_hostCmd hbusy hq, rfl, Memory.wf_ofBytes bs, Memory.read_ofBytes bs⟩

/-! ### No command (R260, R266) -/

/-- Settles O46: the step is the host's turn, and the queue is empty. -/
theorem nothingHappensWithoutAHostCommand : Obligations.NothingHappensWithoutAHostCommand :=
  fun _ hbusy hq => (step_not_busy hbusy).trans (hostStep_nil hq)

end Sys2Proof.Machine
end
